-- ==== Sys2Proof/Word.lean ====
section
/-! DEFINITION. The word types of the CORE (00_scope.md R5, R6). -/

namespace Sys2Proof

/-- A 16-bit unsigned value: register, memory cell, address, instruction word (R5, R6). `+` on it is
`+16` of R9, addition modulo 65536. -/
abbrev Word := BitVec 16

/-- An 8-bit value of the host byte I/O boundary; opaque, with no character set (R13, R200). -/
abbrev Byte := BitVec 8

end Sys2Proof
end

