-- ==== Sys2Proof/Config.lean ====
section
/-! DEFINITION. What the spec leaves to the platform: the OPEN parameters and the host's draws. None of
the opaque constants has a body, so no proof can see a value of one. -/

namespace Sys2Proof

/-- The number of cells of memory (R5, R50). -/
def Config.memCells : Nat := 65536

/-- PC after reset (R5, R36, R260). -/
def Config.startPc : Word := 0x3000#16

/-- What `ReadByte()` returns: a byte of the host's input stream, or `Failure`, the host's "input stream
closed or read error" (R13, R200). -/
inductive HostAnswer where
  | byte (b : Byte)
  | failure
  deriving DecidableEq, Repr, Inhabited

/-- The OPEN parameter `IN_PROMPT`, a byte string the spec does not give (R206, D13). UNVERIFIED, safe: log 14. -/
opaque Config.inPrompt : List Byte

/-- The OPEN parameter `HALT_NOTICE`, a byte string the spec does not give (R209, D14). UNVERIFIED, safe: log 14. -/
opaque Config.haltNotice : List Byte

/-- FREE VALUE: what the host says at the n-th time the CORE asks for an input byte beyond what `State.input`
lists: an answer, or none while it has not answered (R200, D36: "a draw from the host, under no
law"; the wait has no time limit). DESIGN CHOICE, safe: log 15. -/
opaque Config.hostPoll : Nat → Option HostAnswer

end Sys2Proof
end

