-- ==== Sys2Proof/Syntax.lean ====
section
/-! DEFINITION. The instructions as syntax: one constructor per row of spec/opcode_table.json, operands as the
fields of 30_encoding.md R73 (immediates as the raw field; they are extended in Machine/Operands.lean). -/

namespace Sys2Proof

/-- The eight general-purpose registers (R21). -/
inductive Reg where
  | r0 | r1 | r2 | r3 | r4 | r5 | r6 | r7
  deriving DecidableEq, Repr

/-- The sixteen handlers of the opcode map (R72). -/
inductive Opcode where
  | br | add | ld | st | jsr | and | ldr | str | rti | not | ldi | sti | jmp | res | lea | trap
  deriving DecidableEq, Repr

/-- The instructions: the 19 rows and the 7 alias rows of the opcode table. A word that matches an alias
row is that alias (DESIGN CHOICE, safe: log 20). -/
inductive Instr where
  /-- ADD, register form (R121). -/
  | addReg (dr sr1 sr2 : Reg)
  /-- ADD, immediate form (R122). -/
  | addImm (dr sr1 : Reg) (imm5 : BitVec 5)
  /-- AND, register form (R123). -/
  | andReg (dr sr1 sr2 : Reg)
  /-- AND, immediate form (R124). -/
  | andImm (dr sr1 : Reg) (imm5 : BitVec 5)
  /-- NOT (R125). -/
  | notReg (dr sr : Reg)
  /-- BR; `nzp` has n as bit 2, z as bit 1, p as bit 0 (R73, R140). -/
  | br (nzp : BitVec 3) (off9 : BitVec 9)
  /-- JMP (R142); with BaseR = R7 the word is RET. -/
  | jmp (baseR : Reg)
  /-- RET, JMP with BaseR = R7 (R143). -/
  | ret
  /-- JSR (R144). -/
  | jsr (off11 : BitVec 11)
  /-- JSRR (R145). -/
  | jsrr (baseR : Reg)
  /-- LD (R161). -/
  | ld (dr : Reg) (off9 : BitVec 9)
  /-- LDI (R162). -/
  | ldi (dr : Reg) (off9 : BitVec 9)
  /-- LDR (R163). -/
  | ldr (dr baseR : Reg) (off6 : BitVec 6)
  /-- LEA (R164). -/
  | lea (dr : Reg) (off9 : BitVec 9)
  /-- ST (R165). -/
  | st (sr : Reg) (off9 : BitVec 9)
  /-- STI (R166). -/
  | sti (sr : Reg) (off9 : BitVec 9)
  /-- STR (R167). -/
  | str (sr baseR : Reg) (off6 : BitVec 6)
  /-- RTI, reserved (R190); `low` is ir[11:0], which only the diagnostic event of R192 carries. -/
  | rti (low : BitVec 12)
  /-- RES, reserved (R191); `low` as for RTI. -/
  | res (low : BitVec 12)
  /-- TRAP (R201); with a vector 0x20 to 0x25 the word is the service's alias. -/
  | trap (vect8 : BitVec 8)
  /-- TRAP x20 (R202). -/
  | getc
  /-- TRAP x21 (R203). -/
  | out
  /-- TRAP x22 (R204). -/
  | puts
  /-- TRAP x23, the table's IN (R206). -/
  | inChar
  /-- TRAP x24 (R207). -/
  | putsp
  /-- TRAP x25 (R209). -/
  | halt
  deriving DecidableEq, Repr

/-- The rows of the opcode table, by name. -/
inductive RowName where
  | addReg | addImm | andReg | andImm | notReg | br | jmp | ret | jsr | jsrr | ld | ldi | ldr | lea
  | st | sti | str | rti | res | trap | getc | out | puts | inChar | putsp | halt
  deriving DecidableEq, Repr

/-- A row of spec/opcode_table.json: a word w matches it when `w AND mask == match` (INDEX.md). -/
structure TableRow where
  name : RowName
  matchBits : Word
  maskBits : Word
  /-- The row this one is a special case of (`alias_of`). -/
  base : Option RowName
  deriving DecidableEq, Repr

end Sys2Proof
end

