-- ==== Sys2Proof/Machine/State.lean ====
section
/-! DEFINITION. The state of the CORE as plain data, the reasons a step can stop, and the state after reset
(10_state.md, 20_memory.md, 45_trap.md R200). -/

namespace Sys2Proof.Machine

/-- R0 to R7, 16 bits each (R20, R21). PC and COND, the other two slots of R20, are fields of `State`. -/
structure RegFile where
  r0 : Word
  r1 : Word
  r2 : Word
  r3 : Word
  r4 : Word
  r5 : Word
  r6 : Word
  r7 : Word
  deriving DecidableEq, Repr

/-- A slot of the register file at its interface, 0 to 9 (R23). -/
inductive Slot where
  | gpr (r : Reg)
  | pc
  | cond
  deriving DecidableEq, Repr

/-- Memory as (address, cell) pairs; the canonical form is `Memory.wf`. The spec's memory has 16-bit cells and no
byte addresses (R50, R54), so a pair holds one cell (DESIGN CHOICE, safe: log 1). -/
structure Memory where
  cells : List (Nat × Word)
  deriving DecidableEq, Repr

/-- The run state (R33): RUNNING, HALTED, and IO_FAULT after a fatal input failure (R231). -/
inductive RunState where
  | running
  | halted
  | ioFault
  deriving DecidableEq, Repr

/-- An event of the output trace (R35, R200). -/
inductive OutEvent where
  | byte (b : Byte)
  | flush
  deriving DecidableEq, Repr

/-- An event of the diagnostic output (R192), which no instruction can read. -/
inductive Diagnostic where
  | malformedInstruction (ir : Word)
  deriving DecidableEq, Repr

/-- A string service's way of going through memory: PUTS one character a cell (R204), PUTSP two (R207). -/
inductive StringKind where
  | puts
  | putsp
  deriving DecidableEq, Repr

/-- A TRAP service that has begun and not completed (R106, R109: "blocked in GETC or IN waiting for input",
"in a PUTS or PUTSP that never finds its terminator"). DESIGN CHOICE, unsafe for a claim that counts
steps: log 13. -/
inductive Service where
  /-- GETC waits in `ReadByte()`. -/
  | getc
  /-- IN waits in `ReadByte()`, its prompt written. -/
  | inChar
  /-- PUTS or PUTSP has read every cell without a terminator and goes on at `addr`. -/
  | scan (kind : StringKind) (addr : Word)
  deriving DecidableEq, Repr

/-- Everything the spec gives the machine (INVENTORY.md, "State"). -/
structure State where
  /-- R0 to R7 (R21). -/
  regs : RegFile
  /-- The program counter (R25). -/
  pc : Word
  /-- The 16-bit COND slot (R26). -/
  cond : Word
  /-- The run state (R33). -/
  run : RunState
  /-- The 65536 cells (R50). -/
  mem : Memory
  /-- The output trace, oldest event first (R35, R200). -/
  output : List OutEvent
  /-- The host's input stream as far as it is fixed already (R200): what the host says each time it is asked for a byte, next
  first, `none` being no answer yet; after the listed ones the answers are free values (log 15). -/
  input : List (Option HostAnswer)
  /-- How many bytes of the host's input stream have been consumed (R35). -/
  inputPos : Nat
  /-- The TRAP service under way, if any (log 13). -/
  service : Option Service
  /-- The diagnostic events, oldest first (R192; log 17). -/
  diag : List Diagnostic
  /-- The model's own field: how many free host answers have been drawn (log 15). -/
  draws : Nat
  deriving DecidableEq, Repr

/-- The one fault the spec has. -/
inductive Fault where
  /-- IOFailure (R231): the input stream failed in GETC or IN. No step ANSWERS it: the spec's effect is the run state
  IO_FAULT, a next state in which all that was written stays; `State.faultOf` (Safety.lean) reads it off that
  state, so that IO_FAULT is a fault and never a clean end (R109). Safe: log 16. -/
  | ioFailure
  deriving DecidableEq, Repr

/-- Why an instruction has no meaning. -/
inductive Refusal where
  /-- Raised by an arm of exec for an instruction the model does not give a meaning yet; safe. No arm raises it now. -/
  | notModelled (mnemonic : String)
  deriving DecidableEq, Repr

/-- The state after reset (R36, R260): R0 to R7 zero, PC 0x3000, COND ZERO (D3: log 6), RUNNING, empty output trace.
Memory lists nothing (`MEM0` is the host's: log 2); the input stream, its position, the diagnostics and
the draw counter start empty (DESIGN CHOICE: logs 15, 17). -/
def State.reset : State where
  regs := { r0 := 0, r1 := 0, r2 := 0, r3 := 0, r4 := 0, r5 := 0, r6 := 0, r7 := 0 }
  pc := Config.startPc
  cond := 0x0002#16
  run := .running
  mem := { cells := [] }
  output := []
  input := []
  inputPos := 0
  service := none
  diag := []
  draws := 0

end Sys2Proof.Machine
end

