-- ==== Sys2Proof/Machine/Ops.lean ====
section
/-! DEFINITION. The named operations over registers, memory, host I/O and the run state (00_scope.md R10 to R14); the fetch;
trap entry, input failure and reset. -/

namespace Sys2Proof.Machine

/-! Registers (R10, R21: none is hard-wired) -/

def RegFile.get (f : RegFile) : Reg → Word
  | .r0 => f.r0
  | .r1 => f.r1
  | .r2 => f.r2
  | .r3 => f.r3
  | .r4 => f.r4
  | .r5 => f.r5
  | .r6 => f.r6
  | .r7 => f.r7

def RegFile.set (f : RegFile) (r : Reg) (v : Word) : RegFile :=
  match r with
  | .r0 => { f with r0 := v }
  | .r1 => { f with r1 := v }
  | .r2 => { f with r2 := v }
  | .r3 => { f with r3 := v }
  | .r4 => { f with r4 := v }
  | .r5 => { f with r5 := v }
  | .r6 => { f with r6 := v }
  | .r7 => { f with r7 := v }

/-- `R[r]` (R10). -/
def State.reg (s : State) (r : Reg) : Word := s.regs.get r

/-- `R[r] <- v` (R10); it never changes COND by itself (R30). -/
def State.setReg (s : State) (r : Reg) (v : Word) : State := { s with regs := s.regs.set r v }

/-- `PC <- v` (R10). -/
def State.setPc (s : State) (v : Word) : State := { s with pc := v }

/-- `COND <- v` (R10). -/
def State.setCond (s : State) (v : Word) : State := { s with cond := v }

/-- The slot with an index at the register-file interface: 0 to 7 are R0 to R7, 8 is PC, 9 is COND (R23, D28). -/
def Slot.ofIndex : Nat → Option Slot
  | 0 => some (.gpr .r0)
  | 1 => some (.gpr .r1)
  | 2 => some (.gpr .r2)
  | 3 => some (.gpr .r3)
  | 4 => some (.gpr .r4)
  | 5 => some (.gpr .r5)
  | 6 => some (.gpr .r6)
  | 7 => some (.gpr .r7)
  | 8 => some .pc
  | 9 => some .cond
  | _ => none

/-- The document's `get_register(r)` (R10, R23). -/
def State.getRegister (s : State) : Slot → Word
  | .gpr r => s.reg r
  | .pc => s.pc
  | .cond => s.cond

/-- The document's `set_register(r, value)` (R10, R23). -/
def State.setRegister (s : State) (slot : Slot) (v : Word) : State :=
  match slot with
  | .gpr r => s.setReg r v
  | .pc => s.setPc v
  | .cond => s.setCond v

/-! Memory (R11, R50 to R57) -/

/-- What an address with no entry reads as. The spec gives cells the image misses no value (`MEM0`, R63, D18):
DESIGN CHOICE 0x0000, unsafe: log 2. -/
def Memory.unlisted : Word := 0x0000#16

/-- The cell at an address in a list of cells. -/
def lookupCell : List (Nat × Word) → Nat → Word
  | [], _ => Memory.unlisted
  | (k, w) :: rest, a => if k = a then w else lookupCell rest a

/-- Put an entry in its place by rising address, replacing the entry of that address. -/
def insertCell : List (Nat × Word) → Nat → Word → List (Nat × Word)
  | [], a, v => [(a, v)]
  | (k, w) :: rest, a, v =>
    if a < k then (a, v) :: (k, w) :: rest
    else if a = k then (a, v) :: rest
    else (k, w) :: insertCell rest a v

/-- Drop the entry of an address. -/
def eraseCell (cells : List (Nat × Word)) (a : Nat) : List (Nat × Word) := cells.filter fun c => c.1 ≠ a

/-- `MemRead` on a memory (R11): the cell, and nothing changes (R57). -/
def Memory.read (m : Memory) (a : Word) : Word := lookupCell m.cells a.toNat

/-- `MemWrite` on a memory (R11): exactly the one cell changes (R57). -/
def Memory.write (m : Memory) (a v : Word) : Memory :=
  if v = Memory.unlisted then ⟨eraseCell m.cells a.toNat⟩ else ⟨insertCell m.cells a.toNat v⟩

/-- The canonical form: addresses strictly rising and below 65536 (R50), no entry equal to what an unlisted
address reads as. -/
abbrev Memory.wf (m : Memory) : Prop :=
  m.cells.Pairwise (fun c d => c.1 < d.1) ∧ ∀ c ∈ m.cells, c.1 < Config.memCells ∧ c.2 ≠ Memory.unlisted

/-- `MemRead(a)` (R11). -/
def State.memRead (s : State) (a : Word) : Word := s.mem.read a

/-- `MemWrite(a, v)` (R11). -/
def State.memWrite (s : State) (a v : Word) : State := { s with mem := s.mem.write a v }

/-! Bytes of a cell (R54) and zero extension (R8) -/

/-- `v[7:0]`. -/
def lowByte (v : Word) : Byte := v.extractLsb' 0 8

/-- `v[15:8]`. -/
def highByte (v : Word) : Byte := v.extractLsb' 8 8

/-- `zext_16(b)` (R8). -/
def zext16 (b : Byte) : Word := b.setWidth 16

/-! Host byte I/O (R13, R200) -/

/-- `WriteByte(b)`: the event `Byte(b)` is appended to the output trace; it never fails (R200, D16: log 18). -/
def State.writeByte (s : State) (b : Byte) : State := { s with output := s.output ++ [.byte b] }

/-- `WriteByte` of each byte of a string, in order. -/
def State.writeBytes (s : State) (bs : List Byte) : State := { s with output := s.output ++ bs.map .byte }

/-- `Flush()`: the event `Flush` is appended to the output trace (R200). -/
def State.flush (s : State) : State := { s with output := s.output ++ [.flush] }

/-- The host's answer to the `ReadByte()` made in this state, or none while it has not answered (R200): the next
entry of the input stream, and after the listed ones a free value (log 15). -/
def State.hostAnswer (s : State) : Option HostAnswer :=
  match s.input with
  | a :: _ => a
  | [] => Config.hostPoll s.draws

/-- How many bytes an answer consumes: a byte one, a failure none (R35; DEDUCED, safe: log 23). -/
def consumedBytes : Option HostAnswer → Nat
  | some (.byte _) => 1
  | some .failure => 0
  | none => 0

/-- The input stream after the answer has been taken. -/
def State.takeAnswer (s : State) : State :=
  match s.input with
  | _ :: rest => { s with input := rest, inputPos := s.inputPos + consumedBytes s.hostAnswer }
  | [] => { s with inputPos := s.inputPos + consumedBytes s.hostAnswer, draws := s.draws + 1 }

/-- A TRAP service begins to wait, goes on, or is over. -/
def State.setService (s : State) (sv : Option Service) : State := { s with service := sv }

/-! Run state (R14) and diagnostics (R192) -/

/-- `halt` (R14): the run state becomes HALTED. -/
def State.haltRun (s : State) : State := { s with run := .halted }

/-- `raise IOFailure` (R14, R231): the run state becomes IO_FAULT; nothing else is recorded. -/
def State.raiseIOFailure (s : State) : State := { s with run := .ioFault }

/-- `emit_diag(MalformedInstruction, ir)` (R192). -/
def State.emitMalformed (s : State) (ir : Word) : State := { s with diag := s.diag ++ [.malformedInstruction ir] }

/-! Trap entry and return (R235, R236) -/

/-- Trap entry, and the link write of JSR and JSRR: R7 <- PC, already incremented. It changes no mode, mask or stack,
reads no vector table, does not move PC (R235, R201, D6: log 9) and does not write COND (R29, D7). -/
def State.saveReturn (s : State) : State := s.setReg .r7 s.pc

/-- The return through the link register: PC <- R7 (R143). TRAP itself needs no return (R236), and RTI is none (R190). -/
def State.returnThroughLink (s : State) : State := s.setPc (s.reg .r7)

/-! Fetch (R102) -/

/-- `ir <- MemRead(PC)`. -/
def State.fetchWord (s : State) : Word := s.memRead s.pc

/-- `PC <- PC +16 1`. -/
def State.advancePc (s : State) : State := s.setPc (s.pc + 1#16)

/-! Launch and reset (R260 to R264) -/

/-- The state in which a run starts: reset with the host's memory (R262, R264). -/
def State.launch (mem0 : Memory) : State := { State.reset with mem := mem0 }

/-- The reset input `rst` (R261, D31): R36 from any state, memory unchanged (R262). The host's input stream, its position
and the draw counter are the host's and go on; the diagnostics start empty with the output trace
(DESIGN CHOICE, unsafe: log 22). -/
def State.assertReset (s : State) : State :=
  { State.reset with mem := s.mem, input := s.input, inputPos := s.inputPos, draws := s.draws }

end Sys2Proof.Machine
end

