-- ==== Sys2Proof/Machine/Flags.lean ====
section
/-! DEFINITION. The condition_flag_unit: the flag update and the branch condition (10_state.md R26 to R32). -/

namespace Sys2Proof.Machine

/-- POSITIVE (R26; the pairing of names and values is the spec's D2, DEDUCED: log 5). -/
def condPositive : Word := 0x0001#16

/-- ZERO (R26, D2: log 5). -/
def condZero : Word := 0x0002#16

/-- NEGATIVE (R26, D2: log 5). -/
def condNegative : Word := 0x0004#16

/-- The flag of a value (R30): NEGATIVE if bit 15 is set, else ZERO if it is 0, else POSITIVE. -/
def condOf (v : Word) : Word :=
  if v.getLsbD 15 then condNegative else if v = 0x0000#16 then condZero else condPositive

/-- `setcc(v)` (R12, R30). -/
def State.setcc (s : State) (v : Word) : State := s.setCond (condOf v)

/-- Write a computed value to a register and update the flags from it (R28). -/
def State.writeResult (s : State) (dr : Reg) (v : Word) : State := (s.setReg dr v).setcc v

/-- `br_taken = ((nzp AND COND[2:0]) != 0)` (R32). -/
def brTaken (nzp : BitVec 3) (cond : Word) : Bool := nzp &&& cond.extractLsb' 0 3 ≠ 0#3

/-- COND holds one of its three values (R26, R27). -/
abbrev condLegal (c : Word) : Prop := c = condPositive ∨ c = condZero ∨ c = condNegative

end Sys2Proof.Machine
end

