-- ==== Sys2Proof/Machine/Operands.lean ====
section
/-! DEFINITION. Immediates, the second operand of ADD and AND, the alu, and every effective address and target
(R7, R75 to R77, R107, R120, R160). `s.pc` is the incremented PC throughout (R15). -/

namespace Sys2Proof.Machine

/-- `sext_N(x)` (R7): bit N-1 is the test bit; the shifted 0xFFFF is truncated to 16 bits (D34). -/
def sext {n : Nat} (x : BitVec n) : Word :=
  if x.getLsbD (n - 1) then x.setWidth 16 ||| (0xFFFF#16 <<< n) else x.setWidth 16

/-- The alu's operations (R120). -/
inductive AluOp where
  | add
  | and
  | not
  deriving DecidableEq, Repr

/-- The alu (R120): no carry, overflow or status output; `b` is ignored by NOT. -/
def alu (op : AluOp) (a b : Word) : Word :=
  match op with
  | .add => a + b
  | .and => a &&& b
  | .not => ~~~a

/-- PC-relative address or target: `PC +16 sext_9(ir[8:0])` (R160, R107). -/
def State.pcRel9 (s : State) (off9 : BitVec 9) : Word := s.pc + sext off9

/-- JSR's target: `PC +16 sext_11(ir[10:0])` (R107). -/
def State.pcRel11 (s : State) (off11 : BitVec 11) : Word := s.pc + sext off11

/-- PC-relative indirect: the address is the cell the PC-relative address points at (R160). -/
def State.pcIndirect9 (s : State) (off9 : BitVec 9) : Word := s.memRead (s.pcRel9 off9)

/-- Base + offset: `R[BaseR] +16 sext_6(ir[5:0])` (R160). -/
def State.baseOff6 (s : State) (baseR : Reg) (off6 : BitVec 6) : Word := s.reg baseR + sext off6

end Sys2Proof.Machine
end

