-- ==== Sys2Proof/Machine/Control.lean ====
section
/-! DEFINITION. BR, JMP, RET, JSR, JSRR (42_control.md). `s.pc` is the incremented PC. -/

namespace Sys2Proof.Machine

/-- BR (R140): PC moves when the mask meets COND. -/
def execBr (nzp : BitVec 3) (off9 : BitVec 9) (s : State) : Host.Outcome State Fault Refusal :=
  .next (if brTaken nzp s.cond then s.setPc (s.pcRel9 off9) else s)

/-- JMP (R142). -/
def execJmp (baseR : Reg) (s : State) : Host.Outcome State Fault Refusal :=
  .next (s.setPc (s.reg baseR))

/-- RET (R143): JMP with BaseR = 7. -/
def execRet (s : State) : Host.Outcome State Fault Refusal :=
  .next s.returnThroughLink

/-- JSR (R144): the link, then the PC-relative target. -/
def execJsr (off11 : BitVec 11) (s : State) : Host.Outcome State Fault Refusal :=
  .next (s.saveReturn.setPc (s.pcRel11 off11))

/-- JSRR (R145): the link first, then BaseR is read, so JSRR R7 goes to the return address (D5, DEDUCED,
unsafe: log 8). -/
def execJsrr (baseR : Reg) (s : State) : Host.Outcome State Fault Refusal :=
  .next (s.saveReturn.setPc (s.saveReturn.reg baseR))

end Sys2Proof.Machine
end

