-- ==== Sys2Proof/Machine/Operate.lean ====
section
/-! DEFINITION. ADD, AND, NOT (41_operate.md). The sources are read before DR is written. -/

namespace Sys2Proof.Machine

/-- ADD, register form (R121). -/
def execAddReg (dr sr1 sr2 : Reg) (s : State) : Host.Outcome State Fault Refusal :=
  .next (s.writeResult dr (alu .add (s.reg sr1) (s.reg sr2)))

/-- ADD, immediate form (R122). -/
def execAddImm (dr sr1 : Reg) (imm5 : BitVec 5) (s : State) : Host.Outcome State Fault Refusal :=
  .next (s.writeResult dr (alu .add (s.reg sr1) (sext imm5)))

/-- AND, register form (R123). -/
def execAndReg (dr sr1 sr2 : Reg) (s : State) : Host.Outcome State Fault Refusal :=
  .next (s.writeResult dr (alu .and (s.reg sr1) (s.reg sr2)))

/-- AND, immediate form (R124). -/
def execAndImm (dr sr1 : Reg) (imm5 : BitVec 5) (s : State) : Host.Outcome State Fault Refusal :=
  .next (s.writeResult dr (alu .and (s.reg sr1) (sext imm5)))

/-- NOT (R125). -/
def execNotReg (dr sr : Reg) (s : State) : Host.Outcome State Fault Refusal :=
  .next (s.writeResult dr (alu .not (s.reg sr) 0))

end Sys2Proof.Machine
end

