-- ==== Sys2Proof/WellFormed.lean ====
section
/-! DEFINITION. Which terms of `Instr` the decoder can give: an alias row's words are the alias's alone. -/

namespace Sys2Proof

/-- The trap vectors that select a service, 0x20 to 0x25 (R201). -/
def isServiceVector (v : BitVec 8) : Bool := 0x20#8 ≤ v && v ≤ 0x25#8

/-- JMP through R7 is the row RET (R143), and TRAP with a service's vector is that service's row (R201);
every other term is well formed, each operand at any value of its field. -/
def Instr.wellFormed : Instr → Bool
  | .jmp baseR => baseR ≠ .r7
  | .trap vect8 => !isServiceVector vect8
  | .addReg _ _ _ | .addImm _ _ _ | .andReg _ _ _ | .andImm _ _ _ | .notReg _ _ | .br _ _ | .ret | .jsr _ | .jsrr _
  | .ld _ _ | .ldi _ _ | .ldr _ _ _ | .lea _ _ | .st _ _ | .sti _ _ | .str _ _ _ | .rti _ | .res _
  | .getc | .out | .puts | .inChar | .putsp | .halt => true

end Sys2Proof
end

