-- ==== Sys2Proof/Decode.lean ====
section
/-! DEFINITION. The decoder (30_encoding.md): total on every word, as R81 says; then the encoder, written from the
formats of R74; then the opcode table's rows. The numeric opcode values are the spec's decision D1
(PRESUMED, unsafe: log 4). -/

namespace Sys2Proof

/-! Names of codes -/

/-- The register a 3-bit field names (R76). -/
def Reg.ofBits (b : BitVec 3) : Reg :=
  match b.toNat with
  | 0 => .r0 | 1 => .r1 | 2 => .r2 | 3 => .r3 | 4 => .r4 | 5 => .r5 | 6 => .r6 | _ => .r7

/-- The 3-bit field that names a register. -/
def Reg.bits : Reg → BitVec 3
  | .r0 => 0#3 | .r1 => 1#3 | .r2 => 2#3 | .r3 => 3#3 | .r4 => 4#3 | .r5 => 5#3 | .r6 => 6#3 | .r7 => 7#3

/-- The opcode map (R72), with the default arm R81 asks for, which no 4-bit value reaches. -/
def Opcode.ofBits (b : BitVec 4) : Opcode :=
  match b.toNat with
  | 0x0 => .br | 0x1 => .add | 0x2 => .ld | 0x3 => .st | 0x4 => .jsr | 0x5 => .and | 0x6 => .ldr | 0x7 => .str
  | 0x8 => .rti | 0x9 => .not | 0xA => .ldi | 0xB => .sti | 0xC => .jmp | 0xD => .res | 0xE => .lea | 0xF => .trap
  | _ => .res

/-- The opcode map read the other way (R72). -/
def Opcode.bits : Opcode → BitVec 4
  | .br => 0x0#4 | .add => 0x1#4 | .ld => 0x2#4 | .st => 0x3#4 | .jsr => 0x4#4 | .and => 0x5#4 | .ldr => 0x6#4
  | .str => 0x7#4 | .rti => 0x8#4 | .not => 0x9#4 | .ldi => 0xA#4 | .sti => 0xB#4 | .jmp => 0xC#4 | .res => 0xD#4
  | .lea => 0xE#4 | .trap => 0xF#4

/-! Fields of an instruction word (R73, the decoder's outputs of R82) -/

/-- `w[lo+len-1 : lo]` (R6). -/
def slice (w : Word) (lo len : Nat) : BitVec len := w.extractLsb' lo len

/-- `ir[15:12]` (R71). -/
def opcodeOf (w : Word) : Opcode := Opcode.ofBits (slice w 12 4)

/-- `ir[11:9]` as a register: DR, or SR of a store. -/
def drOf (w : Word) : Reg := Reg.ofBits (slice w 9 3)

/-- `ir[8:6]` as a register: SR1, SR of NOT, BaseR. -/
def sr1Of (w : Word) : Reg := Reg.ofBits (slice w 6 3)

/-- `ir[2:0]` as a register: SR2. -/
def sr2Of (w : Word) : Reg := Reg.ofBits (slice w 0 3)

/-- `ir[11:9]` as the BR mask. -/
def nzpOf (w : Word) : BitVec 3 := slice w 9 3

/-- `ir[5]`: 1 selects the immediate form of ADD and AND (R77). -/
def immFlagOf (w : Word) : BitVec 1 := slice w 5 1

/-- `ir[11]`: 1 selects JSR, 0 JSRR (R78). -/
def jsrFlagOf (w : Word) : BitVec 1 := slice w 11 1

/-! The decoder -/

/-- TRAP's sub-dispatch on `ir[7:0]` (R201): the service's own row, or TRAP with another vector. -/
def decodeTrap (v : BitVec 8) : Instr :=
  if v = 0x20#8 then .getc
  else if v = 0x21#8 then .out
  else if v = 0x22#8 then .puts
  else if v = 0x23#8 then .inChar
  else if v = 0x24#8 then .putsp
  else if v = 0x25#8 then .halt
  else .trap v

/-- JMP, or RET when BaseR is R7 (R142, R143). -/
def decodeJmp (baseR : Reg) : Instr := if baseR = .r7 then .ret else .jmp baseR

/-- The decoder (R71, R103): every word selects a handler (R80, R81); bits the handler does not read are dropped
(R79, D4), but for those of RTI and RES, which their diagnostic event shows (R192). -/
def decode (w : Word) : Instr :=
  match opcodeOf w with
  | .br => .br (nzpOf w) (slice w 0 9)
  | .add => if immFlagOf w = 1#1 then .addImm (drOf w) (sr1Of w) (slice w 0 5) else .addReg (drOf w) (sr1Of w) (sr2Of w)
  | .ld => .ld (drOf w) (slice w 0 9)
  | .st => .st (drOf w) (slice w 0 9)
  | .jsr => if jsrFlagOf w = 1#1 then .jsr (slice w 0 11) else .jsrr (sr1Of w)
  | .and => if immFlagOf w = 1#1 then .andImm (drOf w) (sr1Of w) (slice w 0 5) else .andReg (drOf w) (sr1Of w) (sr2Of w)
  | .ldr => .ldr (drOf w) (sr1Of w) (slice w 0 6)
  | .str => .str (drOf w) (sr1Of w) (slice w 0 6)
  | .rti => .rti (slice w 0 12)
  | .not => .notReg (drOf w) (sr1Of w)
  | .ldi => .ldi (drOf w) (slice w 0 9)
  | .sti => .sti (drOf w) (slice w 0 9)
  | .jmp => decodeJmp (sr1Of w)
  | .res => .res (slice w 0 12)
  | .lea => .lea (drOf w) (slice w 0 9)
  | .trap => decodeTrap (slice w 0 8)

/-- The decoder on a table row's bits: an instruction is one 16-bit word (R70, R87), whose bits above the row's
`nbits` are 0; there is no longer instruction. -/
def decodeTableWord (nbits w : Nat) : Option Instr :=
  if nbits ≤ 16 then some (decode (BitVec.ofNat 16 (w % 2 ^ nbits))) else none

/-! The encoder -/

/-- A word of an opcode and twelve bits (formats J11, TR, NONE of R74). -/
def format12 (op : Opcode) (low : BitVec 12) : Word := op.bits ++ low

/-- A word of an opcode, a 3-bit field and a PCoffset9 (formats BR, PC9 of R74). -/
def format9 (op : Opcode) (field : BitVec 3) (off9 : BitVec 9) : Word := format12 op (field ++ off9)

/-- A word of an opcode, two 3-bit fields and six bits (formats OPR, OPI, UN, B6, JR, JRR of R74). -/
def format6 (op : Opcode) (high mid : BitVec 3) (low : BitVec 6) : Word := format12 op (high ++ (mid ++ low))

/-- The low six bits of the register form of ADD and AND (R74, OPR). -/
def registerForm (sr2 : Reg) : BitVec 6 := 0#1 ++ (0#2 ++ sr2.bits)

/-- The low six bits of the immediate form of ADD and AND (R74, OPI). -/
def immediateForm (imm5 : BitVec 5) : BitVec 6 := 1#1 ++ imm5

/-- The low twelve bits of JSR (R74, J11). -/
def jsrForm (off11 : BitVec 11) : BitVec 12 := 1#1 ++ off11

/-- The low twelve bits of TRAP (R74, TR). -/
def trapForm (vect8 : BitVec 8) : BitVec 12 := 0#4 ++ vect8

/-- The word of an instruction, from the formats of R74. Ignored bits are written as R85 and R86 write them: 111111
in NOT, zeros elsewhere (DESIGN CHOICE, safe: log 21). -/
def encode : Instr → Word
  | .addReg dr sr1 sr2 => format6 .add dr.bits sr1.bits (registerForm sr2)
  | .addImm dr sr1 imm5 => format6 .add dr.bits sr1.bits (immediateForm imm5)
  | .andReg dr sr1 sr2 => format6 .and dr.bits sr1.bits (registerForm sr2)
  | .andImm dr sr1 imm5 => format6 .and dr.bits sr1.bits (immediateForm imm5)
  | .notReg dr sr => format6 .not dr.bits sr.bits 0x3F#6
  | .br nzp off9 => format9 .br nzp off9
  | .jmp baseR => format6 .jmp 0#3 baseR.bits 0#6
  | .ret => format6 .jmp 0#3 Reg.r7.bits 0#6
  | .jsr off11 => format12 .jsr (jsrForm off11)
  | .jsrr baseR => format6 .jsr 0#3 baseR.bits 0#6
  | .ld dr off9 => format9 .ld dr.bits off9
  | .ldi dr off9 => format9 .ldi dr.bits off9
  | .ldr dr baseR off6 => format6 .ldr dr.bits baseR.bits off6
  | .lea dr off9 => format9 .lea dr.bits off9
  | .st sr off9 => format9 .st sr.bits off9
  | .sti sr off9 => format9 .sti sr.bits off9
  | .str sr baseR off6 => format6 .str sr.bits baseR.bits off6
  | .rti low => format12 .rti low
  | .res low => format12 .res low
  | .trap vect8 => format12 .trap (trapForm vect8)
  | .getc => format12 .trap (trapForm 0x20#8)
  | .out => format12 .trap (trapForm 0x21#8)
  | .puts => format12 .trap (trapForm 0x22#8)
  | .inChar => format12 .trap (trapForm 0x23#8)
  | .putsp => format12 .trap (trapForm 0x24#8)
  | .halt => format12 .trap (trapForm 0x25#8)

/-- The opcode whose handler an instruction is (R72). -/
def Instr.opcode : Instr → Opcode
  | .addReg _ _ _ | .addImm _ _ _ => .add
  | .andReg _ _ _ | .andImm _ _ _ => .and
  | .notReg _ _ => .not
  | .br _ _ => .br
  | .jmp _ | .ret => .jmp
  | .jsr _ | .jsrr _ => .jsr
  | .ld _ _ => .ld
  | .ldi _ _ => .ldi
  | .ldr _ _ _ => .ldr
  | .lea _ _ => .lea
  | .st _ _ => .st
  | .sti _ _ => .sti
  | .str _ _ _ => .str
  | .rti _ => .rti
  | .res _ => .res
  | .trap _ | .getc | .out | .puts | .inChar | .putsp | .halt => .trap

/-! The opcode table -/

/-- spec/opcode_table.json, row by row. -/
def opcodeTable : List TableRow :=
  [ ⟨.addReg, 0x1000#16, 0xF020#16, none⟩, ⟨.addImm, 0x1020#16, 0xF020#16, none⟩,
    ⟨.andReg, 0x5000#16, 0xF020#16, none⟩, ⟨.andImm, 0x5020#16, 0xF020#16, none⟩,
    ⟨.notReg, 0x9000#16, 0xF000#16, none⟩, ⟨.br, 0x0000#16, 0xF000#16, none⟩,
    ⟨.jmp, 0xC000#16, 0xF000#16, none⟩, ⟨.ret, 0xC1C0#16, 0xF1C0#16, some .jmp⟩,
    ⟨.jsr, 0x4800#16, 0xF800#16, none⟩, ⟨.jsrr, 0x4000#16, 0xF800#16, none⟩ ] ++
  [ ⟨.ld, 0x2000#16, 0xF000#16, none⟩, ⟨.ldi, 0xA000#16, 0xF000#16, none⟩,
    ⟨.ldr, 0x6000#16, 0xF000#16, none⟩, ⟨.lea, 0xE000#16, 0xF000#16, none⟩,
    ⟨.st, 0x3000#16, 0xF000#16, none⟩, ⟨.sti, 0xB000#16, 0xF000#16, none⟩,
    ⟨.str, 0x7000#16, 0xF000#16, none⟩, ⟨.rti, 0x8000#16, 0xF000#16, none⟩,
    ⟨.res, 0xD000#16, 0xF000#16, none⟩ ] ++
  [ ⟨.trap, 0xF000#16, 0xF000#16, none⟩, ⟨.getc, 0xF020#16, 0xF0FF#16, some .trap⟩,
    ⟨.out, 0xF021#16, 0xF0FF#16, some .trap⟩, ⟨.puts, 0xF022#16, 0xF0FF#16, some .trap⟩,
    ⟨.inChar, 0xF023#16, 0xF0FF#16, some .trap⟩, ⟨.putsp, 0xF024#16, 0xF0FF#16, some .trap⟩,
    ⟨.halt, 0xF025#16, 0xF0FF#16, some .trap⟩ ]

/-- The word w matches the row (INDEX.md, "Reading opcode_table.json"). -/
def TableRow.matchesWord (row : TableRow) (w : Word) : Bool := w &&& row.maskBits = row.matchBits

/-- The table row an instruction stands for. -/
def Instr.rowName : Instr → RowName
  | .addReg _ _ _ => .addReg | .addImm _ _ _ => .addImm | .andReg _ _ _ => .andReg | .andImm _ _ _ => .andImm
  | .notReg _ _ => .notReg | .br _ _ => .br | .jmp _ => .jmp | .ret => .ret | .jsr _ => .jsr | .jsrr _ => .jsrr
  | .ld _ _ => .ld | .ldi _ _ => .ldi | .ldr _ _ _ => .ldr | .lea _ _ => .lea | .st _ _ => .st | .sti _ _ => .sti
  | .str _ _ _ => .str | .rti _ => .rti | .res _ => .res | .trap _ => .trap | .getc => .getc | .out => .out
  | .puts => .puts | .inChar => .inChar | .putsp => .putsp | .halt => .halt

/-- The row without `alias_of` that a row's words match: the row itself, or the one it is an alias of. -/
def RowName.baseRow : RowName → RowName
  | .ret => .jmp
  | .getc | .out | .puts | .inChar | .putsp | .halt => .trap
  | .addReg => .addReg | .addImm => .addImm | .andReg => .andReg | .andImm => .andImm | .notReg => .notReg | .br => .br
  | .jmp => .jmp | .jsr => .jsr | .jsrr => .jsrr | .ld => .ld | .ldi => .ldi | .ldr => .ldr | .lea => .lea | .st => .st
  | .sti => .sti | .str => .str | .rti => .rti | .res => .res | .trap => .trap

/-- The bits of the word that the instruction's handler reads (R79 lists the others), opcode included. The
ignored bits of RTI and RES count as read here, since the diagnostic event shows them (R192). -/
def Instr.readBits : Instr → Word
  | .addReg _ _ _ | .andReg _ _ _ => 0xFFE7#16
  | .addImm _ _ _ | .andImm _ _ _ => 0xFFFF#16
  | .notReg _ _ => 0xFFC0#16
  | .jmp _ | .ret => 0xF1C0#16
  | .jsrr _ => 0xF9C0#16
  | .br _ _ | .jsr _ | .ld _ _ | .ldi _ _ | .ldr _ _ _ | .lea _ _ | .st _ _ | .sti _ _ | .str _ _ _
  | .rti _ | .res _ => 0xFFFF#16
  | .trap _ | .getc | .out | .puts | .inChar | .putsp | .halt => 0xF0FF#16

end Sys2Proof
end

