-- ==== Sys2Proof/Machine/Reserved.lean ====
section
/-! DEFINITION. RTI and RES, the reserved opcodes: no-ops that emit a diagnostic event (44_reserved.md). -/

namespace Sys2Proof.Machine

/-- RTI (R190): the fetch increment is the only architectural change; the diagnostic shows `ir` (R192, log 17). -/
def execRti (low : BitVec 12) (s : State) : Host.Outcome State Fault Refusal :=
  .next (s.emitMalformed (encode (.rti low)))

/-- RES (R191): as RTI. -/
def execRes (low : BitVec 12) (s : State) : Host.Outcome State Fault Refusal :=
  .next (s.emitMalformed (encode (.res low)))

end Sys2Proof.Machine
end

