-- ==== Sys2Proof/Machine/Traps.lean ====
section
/-! DEFINITION. TRAP and the services (45_trap.md). A service is performed by the CORE inside the TRAP instruction, after the
R7 write of R201. A service that cannot complete yet is held in `State.service`, and the next step goes on with
it (log 13). -/

namespace Sys2Proof.Machine

/-! Reading a character -/

/-- GETC from its `ReadByte()` on (R202): no echo. While the host has not answered, the service waits. -/
def getcRead (s : State) : State :=
  match s.hostAnswer with
  | some (.byte b) => (s.takeAnswer.setService none).writeResult .r0 (zext16 b)
  | some .failure => (s.takeAnswer.setService none).raiseIOFailure
  | none => s.takeAnswer.setService (some .getc)

/-- IN from its `ReadByte()` on (R206): echo, flush, then R0 and COND (zero extension: D29, log 25). -/
def inRead (s : State) : State :=
  match s.hostAnswer with
  | some (.byte b) => (((s.takeAnswer.setService none).writeByte b).flush).writeResult .r0 (zext16 b)
  | some .failure => (s.takeAnswer.setService none).raiseIOFailure
  | none => s.takeAnswer.setService (some .inChar)

/-! Going through a string -/

/-- What a scan of some cells writes, and whether it found the end of the string. -/
structure ScanResult where
  bytes : List Byte
  ended : Bool
  deriving DecidableEq, Repr

/-- PUTS over at most `fuel` cells from `a` (R204, R205): the low byte of each cell, up to a cell equal to 0x0000. -/
def scanPuts (m : Memory) : Nat → Word → ScanResult
  | 0, _ => ⟨[], false⟩
  | fuel + 1, a =>
    if m.read a = 0x0000#16 then ⟨[], true⟩
    else
      let rest := scanPuts m fuel (a + 1#16)
      ⟨lowByte (m.read a) :: rest.bytes, rest.ended⟩

/-- PUTSP over at most `fuel` cells from `a` (R207, R208): low byte, then high byte, up to the first zero byte
(D12: log 12). -/
def scanPutsp (m : Memory) : Nat → Word → ScanResult
  | 0, _ => ⟨[], false⟩
  | fuel + 1, a =>
    if lowByte (m.read a) = 0x00#8 then ⟨[], true⟩
    else if highByte (m.read a) = 0x00#8 then ⟨[lowByte (m.read a)], true⟩
    else
      let rest := scanPutsp m fuel (a + 1#16)
      ⟨lowByte (m.read a) :: highByte (m.read a) :: rest.bytes, rest.ended⟩

/-- The scan of a string service. -/
def StringKind.scan : StringKind → Memory → Nat → Word → ScanResult
  | .puts => scanPuts
  | .putsp => scanPutsp

/-- A string service from `a` on, over one lap of memory: if the string ends, its bytes and a flush; if no cell ends it,
the bytes of the lap, and the service goes on at `a`, where the lap ends (R205, R208: the scan address wraps
and the scan never ends). -/
def scanFrom (kind : StringKind) (a : Word) (s : State) : State :=
  let r := kind.scan s.mem Config.memCells a
  if r.ended then ((s.writeBytes r.bytes).setService none).flush
  else (s.writeBytes r.bytes).setService (some (.scan kind a))

/-! The services, after the R7 write -/

/-- GETC (R202). -/
def getcService (s : State) : State := getcRead s

/-- OUT (R203). -/
def outService (s : State) : State := (s.writeByte (lowByte (s.reg .r0))).flush

/-- PUTS (R204). -/
def putsService (s : State) : State := scanFrom .puts (s.reg .r0) s

/-- IN (R206): the prompt, then the read. -/
def inService (s : State) : State := inRead (s.writeBytes Config.inPrompt)

/-- PUTSP (R207). -/
def putspService (s : State) : State := scanFrom .putsp (s.reg .r0) s

/-- HALT (R209). -/
def haltService (s : State) : State := ((s.writeBytes Config.haltNotice).flush).haltRun

/-- The sub-dispatch of R201; another vector does nothing (R210, D8: log 10). -/
def trapService (v : BitVec 8) (s : State) : State :=
  if v = 0x20#8 then getcService s
  else if v = 0x21#8 then outService s
  else if v = 0x22#8 then putsService s
  else if v = 0x23#8 then inService s
  else if v = 0x24#8 then putspService s
  else if v = 0x25#8 then haltService s
  else s

/-- Going on with a service that had begun (R106: it is part of the one TRAP instruction). -/
def resumeService : Service → State → State
  | .getc, s => getcRead s
  | .inChar, s => inRead s
  | .scan kind a, s => scanFrom kind a s

/-! The instructions -/

/-- TRAP (R201): R7 <- PC, then the vector's service; PC is not written (D6, D7: log 9). -/
def execTrap (vect8 : BitVec 8) (s : State) : Host.Outcome State Fault Refusal :=
  .next (trapService vect8 s.saveReturn)

/-- GETC, TRAP x20 (R201, R202). -/
def execGetc (s : State) : Host.Outcome State Fault Refusal := .next (getcService s.saveReturn)

/-- OUT, TRAP x21 (R201, R203). -/
def execOut (s : State) : Host.Outcome State Fault Refusal := .next (outService s.saveReturn)

/-- PUTS, TRAP x22 (R201, R204). -/
def execPuts (s : State) : Host.Outcome State Fault Refusal := .next (putsService s.saveReturn)

/-- IN, TRAP x23 (R201, R206). -/
def execInChar (s : State) : Host.Outcome State Fault Refusal := .next (inService s.saveReturn)

/-- PUTSP, TRAP x24 (R201, R207). -/
def execPutsp (s : State) : Host.Outcome State Fault Refusal := .next (putspService s.saveReturn)

/-- HALT, TRAP x25 (R201, R209). -/
def execHalt (s : State) : Host.Outcome State Fault Refusal := .next (haltService s.saveReturn)

end Sys2Proof.Machine
end

