-- ==== Sys2Proof/Machine/Step.lean ====
section
/-! DEFINITION. One pass of the fetch-decode-execute loop (40_fetch_cycle.md R101 to R105, R110). -/

namespace Sys2Proof.Machine

/-- The step: nothing when the run state is not RUNNING (R101); else a service that has begun goes on (log 13); else the
word at PC is fetched, PC is incremented, and the word's instruction is executed (R102 to R104). -/
def step (s : State) : Host.Outcome State Fault Refusal :=
  match s.run with
  | .running =>
    match s.service with
    | some sv => .next (resumeService sv s)
    | none => exec (decode s.fetchWord) s.advancePc
  | .halted => .next s
  | .ioFault => .next s

/-- `s` with the instruction word stored in the cell at PC, RUNNING and with no service under way, so that the next step
fetches and runs it (the host's loading of `MEM0`, R264: log 3). -/
def State.withFetchWord (s : State) (nbits w : Nat) : State :=
  { s.memWrite s.pc (BitVec.ofNat 16 (w % 2 ^ nbits)) with run := .running, service := none }

end Sys2Proof.Machine
end

