-- ==== Sys2Proof/Machine/Effects.lean ====
section
/-! DEFINITION. What each instruction may read and write, row by row as the spec tabulates it (R22, R28, R51). The whole-machine
statements are in these terms. A TRAP term here is one with a vector that selects no service. -/

namespace Sys2Proof.Machine

/-- "GPR read" of R22. -/
def readRegs : Instr → List Reg
  | .addReg _ sr1 sr2 | .andReg _ sr1 sr2 => [sr1, sr2]
  | .addImm _ sr1 _ | .andImm _ sr1 _ => [sr1]
  | .notReg _ sr => [sr]
  | .jmp baseR | .jsrr baseR => [baseR]
  | .ret => [.r7]
  | .ldr _ baseR _ => [baseR]
  | .st sr _ | .sti sr _ => [sr]
  | .str sr baseR _ => [sr, baseR]
  | .out | .puts | .putsp => [.r0]
  | .br _ _ | .jsr _ | .ld _ _ | .ldi _ _ | .lea _ _ | .rti _ | .res _ | .trap _ | .getc | .inChar | .halt => []

/-- "GPR written" of R22. -/
def writtenRegs : Instr → List Reg
  | .addReg dr _ _ | .andReg dr _ _ | .addImm dr _ _ | .andImm dr _ _ | .notReg dr _ => [dr]
  | .ld dr _ | .ldi dr _ | .lea dr _ | .ldr dr _ _ => [dr]
  | .jsr _ | .jsrr _ | .trap _ | .out | .puts | .putsp | .halt => [.r7]
  | .getc | .inChar => [.r7, .r0]
  | .br _ _ | .jmp _ | .ret | .st _ _ | .sti _ _ | .str _ _ _ | .rti _ | .res _ => []

/-- "COND written" of R22: the register whose new value the flag update is given (R28), if any (R29). -/
def flagSource : Instr → Option Reg
  | .addReg dr _ _ | .andReg dr _ _ | .addImm dr _ _ | .andImm dr _ _ | .notReg dr _ => some dr
  | .ld dr _ | .ldi dr _ | .lea dr _ | .ldr dr _ _ => some dr
  | .getc | .inChar => some .r0
  | .br _ _ | .jmp _ | .ret | .jsr _ | .jsrr _ | .st _ _ | .sti _ _ | .str _ _ _ | .rti _ | .res _ | .trap _ | .out
  | .puts | .putsp | .halt => none

/-- The cell an instruction stores to, by the address function its meaning uses; `s` is the state after the fetch
increment (R51: only ST, STI and STR write memory). -/
def storeAddress (i : Instr) (s : State) : Option Word :=
  match i with
  | .st _ off9 => some (s.pcRel9 off9)
  | .sti _ off9 => some (s.pcIndirect9 off9)
  | .str _ baseR off6 => some (s.baseOff6 baseR off6)
  | .addReg _ _ _ | .addImm _ _ _ | .andReg _ _ _ | .andImm _ _ _ | .notReg _ _ | .br _ _ | .jmp _ | .ret | .jsr _
  | .jsrr _ | .ld _ _ | .ldi _ _ | .ldr _ _ _ | .lea _ _ | .rti _ | .res _ | .trap _ | .getc | .out | .puts
  | .inChar | .putsp | .halt => none

end Sys2Proof.Machine
end

