-- ==== Sys2Proof/Machine/Units.lean ====
section
/-! DEFINITION. The six units as the spec divides them: the decoder's outputs and control signals (R82, R83), the other units'
functions (R24, R31, R59, R100, R107, R120) and the datapath they make together. The units are the spec's
decision D26 with no architectural effect; exec governs, and an obligation says that the two agree. -/

namespace Sys2Proof.Machine

/-- What the second alu operand is (R83). -/
inductive BSelect where
  | register
  | immediate
  deriving DecidableEq, Repr

/-- The source of the GPR write port's data (R83); `none` is no DR write. -/
inductive WriteSource where
  | none
  | alu
  | loadData
  | address
  deriving DecidableEq, Repr

/-- `ls_op` (R59). -/
inductive LoadStoreOp where
  | none
  | load
  | loadIndirect
  | store
  | storeIndirect
  deriving DecidableEq, Repr

/-- The address adder's operands (R59, R160). -/
inductive AddressMode where
  | pcOff9
  | baseOff6
  deriving DecidableEq, Repr

/-- `pc_sel` (R107). -/
inductive PcSelect where
  | seq
  | rel9
  | rel11
  | reg
  deriving DecidableEq, Repr

/-- The decoder's data outputs (R82). -/
structure DecodedFields where
  opcode : Opcode
  dr : Reg
  sr1 : Reg
  sr2 : Reg
  nzp : BitVec 3
  immFlag : BitVec 1
  jsrFlag : BitVec 1
  imm5 : Word
  off6 : Word
  off9 : Word
  off11 : Word
  trapvect8 : BitVec 8
  deriving DecidableEq, Repr

/-- All combinational functions of `ir` (R82, R75). -/
def decodedFields (ir : Word) : DecodedFields where
  opcode := opcodeOf ir
  dr := drOf ir
  sr1 := sr1Of ir
  sr2 := sr2Of ir
  nzp := nzpOf ir
  immFlag := immFlagOf ir
  jsrFlag := jsrFlagOf ir
  imm5 := sext (slice ir 0 5)
  off6 := sext (slice ir 0 6)
  off9 := sext (slice ir 0 9)
  off11 := sext (slice ir 0 11)
  trapvect8 := slice ir 0 8

/-- The control signals of a handler (R83); the defaults are its "none", 0, NONE and SEQ. -/
structure Control where
  aluOp : AluOp := .add
  bSelect : BSelect := .register
  writeSource : WriteSource := .none
  setccEn : Bool := false
  lsOp : LoadStoreOp := .none
  address : AddressMode := .pcOff9
  pcSelect : PcSelect := .seq
  /-- R7 <- PC, before anything else reads a register ("link first"). -/
  link : Bool := false
  trapReq : Bool := false
  malformed : Bool := false
  deriving DecidableEq, Repr

/-- The second operand that `imm_flag` selects (R77). -/
def bSelectOf (immFlag : BitVec 1) : BSelect := if immFlag = 1#1 then .immediate else .register

/-- The control table (R83), a row a handler; BR's choice by `br_taken` is made in `nextPc`. -/
def controlOf (f : DecodedFields) : Control :=
  match f.opcode with
  | .add => { aluOp := .add, bSelect := bSelectOf f.immFlag, writeSource := .alu, setccEn := true }
  | .and => { aluOp := .and, bSelect := bSelectOf f.immFlag, writeSource := .alu, setccEn := true }
  | .not => { aluOp := .not, writeSource := .alu, setccEn := true }
  | .br => { pcSelect := .rel9 }
  | .jmp => { pcSelect := .reg }
  | .jsr => { link := true, pcSelect := if f.jsrFlag = 1#1 then .rel11 else .reg }
  | .ld => { writeSource := .loadData, setccEn := true, lsOp := .load }
  | .ldi => { writeSource := .loadData, setccEn := true, lsOp := .loadIndirect }
  | .ldr => { writeSource := .loadData, setccEn := true, lsOp := .load, address := .baseOff6 }
  | .lea => { writeSource := .address, setccEn := true }
  | .st => { lsOp := .store }
  | .sti => { lsOp := .storeIndirect }
  | .str => { lsOp := .store, address := .baseOff6 }
  | .trap => { link := true, trapReq := true }
  | .rti => { malformed := true }
  | .res => { malformed := true }

/-- `cond_d` when `cond_en = setcc_en` (R31). -/
def condUnit (setccEn : Bool) (v condQ : Word) : Word := if setccEn then condOf v else condQ

/-- `ea = base +16 offset` (R59). -/
def addressAdder (mode : AddressMode) (f : DecodedFields) (s : State) : Word :=
  match mode with
  | .pcOff9 => s.pc + f.off9
  | .baseOff6 => s.reg f.sr1 + f.off6

/-- `ld_data` (R59): two reads for an indirect load, pointer first (R60). -/
def loadData (op : LoadStoreOp) (ea : Word) (s : State) : Word :=
  match op with
  | .loadIndirect => s.memRead (s.memRead ea)
  | .load | .none | .store | .storeIndirect => s.memRead ea

/-- The memory write path (R59). -/
def storeData (op : LoadStoreOp) (ea stData : Word) (s : State) : State :=
  match op with
  | .store => s.memWrite ea stData
  | .storeIndirect => s.memWrite (s.memRead ea) stData
  | .none | .load | .loadIndirect => s

/-- The next PC (R107), from the incremented PC `s.pc`; REL9 waits on `br_taken` (R31, R32). -/
def nextPc (sel : PcSelect) (f : DecodedFields) (s : State) : Word :=
  match sel with
  | .seq => s.pc
  | .rel9 => if brTaken f.nzp s.cond then s.pc + f.off9 else s.pc
  | .rel11 => s.pc + f.off11
  | .reg => s.reg f.sr1

/-- The value on the GPR write port, if `w_en` (R24, R83). -/
def writeData (c : Control) (f : DecodedFields) (ea : Word) (s : State) : Option Word :=
  match c.writeSource with
  | .none => none
  | .alu => some (alu c.aluOp (s.reg f.sr1) (match c.bSelect with | .register => s.reg f.sr2 | .immediate => f.imm5))
  | .loadData => some (loadData c.lsOp ea s)
  | .address => some ea

/-- One instruction through the units, from the state after the fetch increment: link, store, next PC, register and COND
write, then the trap service or the diagnostic. -/
def datapath (ir : Word) (s : State) : State :=
  let f := decodedFields ir
  let c := controlOf f
  let linked := if c.link then s.saveReturn else s
  let ea := addressAdder c.address f linked
  let stored := storeData c.lsOp ea (linked.reg f.dr) linked
  let moved := stored.setPc (nextPc c.pcSelect f linked)
  let written := match writeData c f ea linked with
    | some v => (moved.setReg f.dr v).setCond (condUnit c.setccEn v linked.cond)
    | none => moved
  let served := if c.trapReq then trapService f.trapvect8 written else written
  if c.malformed then served.emitMalformed ir else served

end Sys2Proof.Machine
end

