-- ==== Sys2Proof/Safety.lean ====
section
/-! DEFINITION. How a run ends (R109), what the next step runs, the invariant of the machine, and the frames the statements use. -/

namespace Sys2Proof.Machine

/-- A run ends when the run state is HALTED or IO_FAULT (R109); a RUNNING state is never final. -/
def State.final (s : State) : Bool := s.run ≠ .running

/-- The clean end of a run (R109). -/
def State.cleanEnd (s : State) : Bool := s.run = .halted

/-- The fault a run ended in: IO_FAULT is a fault, never a clean end (R109, R231). -/
def State.faultOf (s : State) : Option Fault :=
  match s.run with
  | .ioFault => some .ioFailure
  | .running | .halted => none

/-- The instruction the next step runs: the one fetched, or the TRAP whose service is under way (log 13). -/
def State.executing (s : State) : Instr :=
  match s.service with
  | none => decode s.fetchWord
  | some .getc => .getc
  | some .inChar => .inChar
  | some (.scan .puts _) => .puts
  | some (.scan .putsp _) => .putsp

/-- A service under way belongs to a RUNNING machine, and a scan under way is one that no cell of memory ends. -/
def State.serviceOk (s : State) : Prop :=
  match s.service with
  | none => True
  | some .getc | some .inChar => s.run = .running
  | some (.scan kind a) => s.run = .running ∧ (kind.scan s.mem Config.memCells a).ended = false

/-- The machine's invariant: COND holds exactly one flag (R27), memory has its canonical form (log 1), a service under way is
as it should be (log 13). -/
structure State.Inv (s : State) : Prop where
  cond : condLegal s.cond
  mem : s.mem.wf
  service : s.serviceOk

/-- The states a run from `s` goes through. -/
inductive Reaches (s : State) : State → Prop where
  | refl : Reaches s s
  | step {t u : State} : Reaches s t → step t = .next u → Reaches s u

/-! Frames -/

/-- Every general-purpose register but those listed is unchanged. -/
def SameRegsBut (rs : List Reg) (s t : State) : Prop := ∀ r, r ∉ rs → t.reg r = s.reg r

/-- Every cell reads as before. -/
def SameMemory (s t : State) : Prop := ∀ a, t.memRead a = s.memRead a

/-- Every cell but the one at `a` reads as before. -/
def SameMemoryBut (a : Word) (s t : State) : Prop := ∀ b, b ≠ a → t.memRead b = s.memRead b

/-- Nothing is read from the host. -/
def SameInput (s t : State) : Prop := t.input = s.input ∧ t.inputPos = s.inputPos ∧ t.draws = s.draws

/-- Nothing happens between the CORE and the host: no input, no output, no diagnostic, the same run state, no service
begun or ended. -/
def SameHostSide (s t : State) : Prop :=
  SameInput s t ∧ t.output = s.output ∧ t.diag = s.diag ∧ t.run = s.run ∧ t.service = s.service

/-- Only DR and COND may have changed. -/
def OnlyResult (dr : Reg) (s t : State) : Prop :=
  SameRegsBut [dr] s t ∧ SameMemory s t ∧ t.pc = s.pc ∧ SameHostSide s t

/-- Only PC and the registers listed may have changed. -/
def OnlyPcAnd (rs : List Reg) (s t : State) : Prop :=
  SameRegsBut rs s t ∧ SameMemory s t ∧ t.cond = s.cond ∧ SameHostSide s t

/-- What a TRAP service leaves alone, whichever it is (R211: no service writes memory or PC), with the R7 write of R201. -/
def TrapFrame (rs : List Reg) (s t : State) : Prop :=
  t.reg .r7 = s.pc ∧ SameRegsBut (.r7 :: rs) s t ∧ SameMemory s t ∧ t.pc = s.pc ∧ t.diag = s.diag

/-- What a read under way leaves alone in a step that gives it no byte; the answer listed, if any, is used up (log 23). -/
def NoByteTaken (s t : State) : Prop :=
  SameRegsBut [] s t ∧ t.cond = s.cond ∧ t.pc = s.pc ∧ SameMemory s t ∧ t.output = s.output ∧ t.diag = s.diag ∧
  t.input = s.input.tail ∧ t.inputPos = s.inputPos

end Sys2Proof.Machine
end

