-- ==== Sys2Proof/Certificates/Slice0/Obligations.lean ====
section
/-! DEFINITION. The statements for the provers. `s` is, in a statement about exec, the state after the fetch increment (R15,
R102), so `s.pc` is the incremented PC. "log n" is notes/assumptions/n.md, "D n" spec/92_eei_decisions.md. -/

open Sys2Proof Sys2Proof.Machine

/-! ## Encoding -/

/-- Words written out from the spec's formats and vectors (30_encoding.md R74, 95_test_vectors.md 2.3) decode to what they
stand for. They rest on D1 (log 4) and D4 (log 7). -/
def Obligations.SpecWordsDecode : Prop :=
  decode 0x107D#16 = .addImm .r0 .r1 0b11101#5 ∧ decode 0x165A#16 = .addReg .r3 .r1 .r2 ∧
  decode 0x5642#16 = .andReg .r3 .r1 .r2 ∧ decode 0x9B00#16 = .notReg .r5 .r4 ∧
  decode 0x0602#16 = .br 0b011#3 2#9 ∧ decode 0xC1C0#16 = .ret ∧ decode 0xCE80#16 = .jmp .r2 ∧
  decode 0x4805#16 = .jsr 5#11 ∧ decode 0x40C0#16 = .jsrr .r3 ∧ decode 0x673F#16 = .ldr .r3 .r4 0b111111#6 ∧
  decode 0x3202#16 = .st .r1 2#9 ∧ decode 0xFF25#16 = .halt ∧ decode 0xD123#16 = .res 0x123#12

/-- Decode and encode agree: every well-formed instruction, each operand at every value of its field, comes back from its
word. Opcode values by D1 (log 4), ignored bits by D4 (log 7). -/
def Obligations.DecodeOfEncodeIsIdentity : Prop :=
  ∀ i : Instr, i.wellFormed = true → decode (encode i) = i

/-- The other direction: what a word decodes to is well formed, and its encoding agrees with the word on every bit the
handler reads (R79, D4: log 7). -/
def Obligations.EncodeOfDecodeKeepsReadBits : Prop :=
  ∀ w : Word, (decode w).wellFormed = true ∧ encode (decode w) &&& (decode w).readBits = w &&& (decode w).readBits

/-- Two words that differ only in bits the handler does not read are the same instruction (R79, D4: log 7); the ignored bits of
RTI and RES reach only the diagnostic output (R192, D10: log 17). -/
def Obligations.IgnoredBitsChangeNothing : Prop :=
  (∀ w w' : Word, (w ^^^ w') &&& (decode w).readBits = 0#16 → decode w' = decode w) ∧
  (∀ (low low' : BitVec 12) (s : State), ∃ t t',
    exec (.rti low) s = .next t ∧ exec (.rti low') s = .next t' ∧ ({ t with diag := [] } : State) = { t' with diag := [] }) ∧
  (∀ (low low' : BitVec 12) (s : State), ∃ t t',
    exec (.res low) s = .next t ∧ exec (.res low') s = .next t' ∧ ({ t with diag := [] } : State) = { t' with diag := [] })

/-- The decoder and the opcode table agree: the rows a word matches are exactly its instruction's own row and the row that is
an alias of, so it matches exactly one row without alias_of (INDEX.md). Values by D1 (log 4). -/
def Obligations.WordMatchesExactlyItsTableRows : Prop :=
  ∀ (w : Word) (row : TableRow), row ∈ opcodeTable →
    (row.matchesWord w = true ↔ row.name = (decode w).rowName ∨ row.name = (decode w).rowName.baseRow)

/-! ## The step -/

/-- A step runs the decoded instruction (R102): the word at PC is read, PC is incremented with wrap, and the word's
instruction is executed from there. A service under way comes first (log 13). -/
def Obligations.StepRunsTheDecodedInstruction : Prop :=
  ∀ (s : State) (i : Instr), s.run = .running → s.service = none → decode (s.memRead s.pc) = i →
    ∃ s', step s = exec i s' ∧ s'.pc.toNat = (s.pc.toNat + 1) % 65536 ∧ s' = { s with pc := s'.pc }

/-- The loop check (R101): outside RUNNING nothing is fetched and no state changes; in RUNNING the cycle fetches, decodes and
executes (or goes on with the instruction it is in: log 13). -/
def Obligations.LoopCheckStopsOutsideRunning : Prop :=
  (∀ s : State, s.run ≠ .running → step s = .next s) ∧
  (∀ s : State, s.run = .running → s.service = none → step s = exec (decode (s.memRead s.pc)) (s.setPc (s.pc + 1#16)))

/-- HALTED and IO_FAULT are terminal (R242; D33, the spec's decision): however many steps, nothing changes. That a step outside
RUNNING answers the same state is log 16. -/
def Obligations.EndedRunsStayAsTheyAre : Prop :=
  ∀ (k : Nat) (s : State), s.run ≠ .running → Host.Core.run Sys2Proof.core k s = .next s

/-- Every one of the 65536 words executes, and no step faults or refuses (30_encoding.md section 4, 60_exceptions.md R230:
no overflow, alignment, access, privilege or illegal-opcode exception exists). That an input failure, R230's fatal class,
is a next state in IO_FAULT and not a fault answer is the model's choice (log 16); that an unanswered read and a
PUTS or PUTSP with no terminator answer a next state is log 13. -/
def Obligations.EveryWordExecutes : Prop :=
  (∀ (w : Word) (s : State), ∃ t, exec (decode w) s = .next t) ∧ (∀ s : State, ∃ t, step s = .next t)

/-- A word placed at PC is the instruction the very next step runs (log 3: how a program comes to run). -/
def Obligations.PlacedWordRunsNext : Prop :=
  ∀ (s : State) (w : Word), ∃ s', step (s.withFetchWord 16 w.toNat) = exec (decode w) s' ∧
    s'.pc = s.pc + 1#16 ∧ s'.run = .running ∧ s'.memRead s.pc = w ∧ SameMemoryBut s.pc s s' ∧ SameRegsBut [] s s' ∧
    s'.cond = s.cond ∧ s'.output = s.output ∧ SameInput s s'

/-! ## Invariants -/

/-- Every step keeps the invariant: one flag in COND (R27), memory in its canonical form (log 1), a service under way
in order (log 13). -/
def Obligations.StepKeepsInvariant : Prop :=
  ∀ s t : State, s.Inv → step s = .next t → t.Inv

/-- The state after reset meets the invariant; so does a launch with any memory in canonical form, and every state such
a run reaches (MEM0 is the host's: R63, log 2). -/
def Obligations.LaunchedRunsMeetInvariant : Prop :=
  State.reset.Inv ∧ ∀ mem0 : Memory, mem0.wf → ∀ t, Reaches (State.launch mem0) t → t.Inv

/-- Exactly one flag is active at any time (R27): from reset, from every flag update, and over every step. -/
def Obligations.ExactlyOneFlagIsActive : Prop :=
  (∀ c : Word, condLegal c ↔ c = condPositive ∨ c = condZero ∨ c = condNegative) ∧
  (∀ c : Word, condLegal c → ∃ k, k < 16 ∧ ∀ j, c.getLsbD j = true ↔ j = k) ∧ condLegal State.reset.cond ∧
  (∀ (s : State) (v : Word), condLegal (s.setcc v).cond) ∧
  (∀ s t : State, condLegal s.cond → step s = .next t → condLegal t.cond)

/-- Equal memories are equal data: two memories in canonical form that read the same everywhere are the same (log 1). -/
def Obligations.EqualReadsMeanEqualMemories : Prop :=
  ∀ m m' : Memory, m.wf → m'.wf → (∀ a : Word, m.read a = m'.read a) → m = m'

/-! ## Flags -/

/-- The flag update (R30): NEGATIVE if bit 15 is set (the value is negative), else ZERO if the value is 0, else POSITIVE;
it writes COND and nothing else. -/
def Obligations.FlagUpdateFollowsTheSign : Prop :=
  ∀ (s : State) (v : Word),
    (s.setcc v).cond = (if v.toInt < 0 then condNegative else if v.toInt = 0 then condZero else condPositive) ∧
    ({ s.setcc v with cond := s.cond } : State) = s

/-- The flags' values and the mask bits that test them (10_state.md section 3; the pairing is D2, log 5): n tests NEGATIVE, z
ZERO, p POSITIVE, so with one flag in COND mask 000 is never taken and 111 always. -/
def Obligations.BranchMaskBitsTestTheirFlags : Prop :=
  condPositive = 1#16 ∧ condZero = 2#16 ∧ condNegative = 4#16 ∧
  (∀ nzp : BitVec 3, brTaken nzp condNegative = nzp.getLsbD 2 ∧ brTaken nzp condZero = nzp.getLsbD 1 ∧
    brTaken nzp condPositive = nzp.getLsbD 0) ∧
  (∀ c : Word, brTaken 0b000#3 c = false) ∧ (∀ c : Word, condLegal c → brTaken 0b111#3 c = true)

/-! ## Whole-machine rules -/

/-- COND is written after, and only after, the DR write of ADD, AND, NOT, LD, LDI, LDR and LEA and the R0 write of GETC and IN
(10_state.md R28), from the value written. GETC and IN write R0, and so COND, exactly when the host gives a byte; on a
failure and while they wait (log 13) neither changes. -/
def Obligations.FlagsFollowTheListedWritesOnly : Prop :=
  ∀ s t : State, s.run = .running → step s = .next t →
    if s.executing = .getc ∨ s.executing = .inChar then
      match s.hostAnswer with
      | some (.byte b) => t.reg .r0 = zext16 b ∧ t.cond = condOf (zext16 b)
      | some .failure | none => t.reg .r0 = s.reg .r0 ∧ t.cond = s.cond
    else
      match flagSource s.executing with
      | some dr => t.cond = condOf (t.reg dr)
      | none => t.cond = s.cond

/-- The general-purpose registers an instruction writes are those of R22's table: a step changes no other (10_state.md section 1;
for a service under way the instruction is its TRAP, log 13). -/
def Obligations.RegistersChangeOnlyAsTabulated : Prop :=
  ∀ (s t : State) (r : Reg), step s = .next t → t.reg r ≠ s.reg r → s.run = .running ∧ r ∈ writtenRegs s.executing

/-- The general-purpose registers an instruction reads are those of R22's table: the value of another register makes no
difference to anything but, where it is not written, that register (10_state.md section 1). -/
def Obligations.UnreadRegistersMakeNoDifference : Prop :=
  ∀ (i : Instr) (s : State) (r : Reg) (v : Word), i.wellFormed = true → r ∉ readRegs i →
    ∃ t t', exec i s = .next t ∧ exec i (s.setReg r v) = .next t' ∧ (t' = t ∨ t' = t.setReg r v)

/-- Only ST, STI and STR change memory, and only the cell at their effective address (20_memory.md section 1). -/
def Obligations.OnlyStoresChangeMemory : Prop :=
  ∀ (s t : State) (a : Word), step s = .next t → t.memRead a ≠ s.memRead a →
    s.run = .running ∧ s.service = none ∧ storeAddress (decode (s.memRead s.pc)) (s.setPc (s.pc + 1#16)) = some a

/-- PC after a cycle (10_state.md R25): the next sequential address, wrapping, unless a taken BR, JMP, RET, JSR or JSRR changed
it. That TRAP does not is D6 (log 9). -/
def Obligations.PcIsSequentialUnlessTransferred : Prop :=
  ∀ s t : State, s.run = .running → s.service = none → step s = .next t →
    t.pc.toNat = (s.pc.toNat + 1) % 65536 ∨
    (∃ nzp off9, decode (s.memRead s.pc) = .br nzp off9 ∧ brTaken nzp s.cond = true) ∨
    (∃ baseR, decode (s.memRead s.pc) = .jmp baseR) ∨ decode (s.memRead s.pc) = .ret ∨
    (∃ off11, decode (s.memRead s.pc) = .jsr off11) ∨ (∃ baseR, decode (s.memRead s.pc) = .jsrr baseR)

/-- The run state changes only by TRAP HALT, to HALTED, and by an input failure in GETC or IN, to IO_FAULT (10_state.md section
4; IO_FAULT is D15, log 16; the read may be one under way, log 13). -/
def Obligations.RunStateChangesOnlyByHaltOrInputFailure : Prop :=
  ∀ s t : State, step s = .next t → t.run ≠ s.run → s.run = .running ∧
    ((t.run = .halted ∧ s.executing = .halt) ∨
     (t.run = .ioFault ∧ (s.executing = .getc ∨ s.executing = .inChar) ∧ s.hostAnswer = some .failure))

/-- The output trace only grows, and only by OUT, PUTS, IN, PUTSP and HALT (45_trap.md section 1, D16: log 18), at once or, for a
service under way, in a later step (log 13). -/
def Obligations.OutputTraceOnlyGrows : Prop :=
  ∀ s t : State, step s = .next t → ∃ events, t.output = s.output ++ events ∧
    (events ≠ [] → s.run = .running ∧ s.executing ∈ [Instr.out, .puts, .inChar, .putsp, .halt])

/-- The host's input is taken only by GETC and IN, one answer a step at most, and a byte moves the input position by one
(45_trap.md section 1; the counting is logs 15 and 23, a read under way log 13). -/
def Obligations.InputIsTakenOnlyByGetcAndIn : Prop :=
  ∀ s t : State, step s = .next t → SameInput s t ∨
    (s.run = .running ∧ (s.executing = .getc ∨ s.executing = .inChar) ∧ t.input = s.input.tail ∧
      t.inputPos = s.inputPos + consumedBytes s.hostAnswer)

/-- A store is seen by the next fetch (20_memory.md R62, D22): when ST, STI or STR stores to the next instruction's cell, the
value stored, SR's, is what is fetched next; stored anywhere else it leaves the next instruction as it was. -/
def Obligations.StoreIsSeenByTheNextFetch : Prop :=
  ∀ (s : State) (a : Word), s.run = .running → s.service = none →
    storeAddress (decode (s.memRead s.pc)) (s.setPc (s.pc + 1#16)) = some a →
    ∃ t, step s = .next t ∧ t.pc = s.pc + 1#16 ∧ t.memRead a = s.reg (drOf (s.memRead s.pc)) ∧
      step t = exec (decode (if a = s.pc + 1#16 then s.reg (drOf (s.memRead s.pc)) else s.memRead (s.pc + 1#16)))
        (t.setPc (s.pc + 2#16))

/-- The decoder's control signals drive the six units to the same next state as exec, for every word and every state
(30_encoding.md section 4, 40_fetch_cycle.md section 3; the division into units is D26). -/
def Obligations.UnitsAgreeWithExec : Prop :=
  ∀ (w : Word) (s : State), exec (decode w) s = .next (datapath w s)

/-! ## Operands -/

/-- `sext_N` (R7): with the test bit N-1 set, the bits above the field are ones; else the value is unchanged. So the
two's-complement value is the field's. -/
def Obligations.SignExtensionTestsBitNMinusOne : Prop :=
  ∀ (n : Nat) (x : BitVec n), n ∈ [5, 6, 9, 11] →
    (sext x).toNat = (if x.toNat < 2 ^ (n - 1) then x.toNat else x.toNat + (65536 - 2 ^ n)) ∧
    (sext x).toInt = x.toInt

/-- Effective addresses are sums modulo 65536 of the incremented PC or a base register and a signed offset counted in cells,
and an indirect address is the cell such an address points at (43_load_store.md section 1). -/
def Obligations.AddressesWrapAndCountCells : Prop :=
  ∀ (s : State) (baseR : Reg) (off9 : BitVec 9) (off6 : BitVec 6) (off11 : BitVec 11),
    ((s.pcRel9 off9).toNat : Int) = ((s.pc.toNat : Int) + off9.toInt) % 65536 ∧
    ((s.pcRel11 off11).toNat : Int) = ((s.pc.toNat : Int) + off11.toInt) % 65536 ∧
    ((s.baseOff6 baseR off6).toNat : Int) = (((s.reg baseR).toNat : Int) + off6.toInt) % 65536 ∧
    s.pcIndirect9 off9 = s.memRead (s.pc + off9.signExtend 16)

/-! ## Operate instructions. In this section and those below, a clause about `decode` says which bits of the word are the operands,
by the handler (R73, R103); which number selects a handler is D1 (log 4), and those clauses do not rest on it. -/

/-- ADD, register form (R121): DR is the sum modulo 65536 of the sources as they were, COND follows it, nothing else changes. -/
def Obligations.AddRegisterSumsModulo65536 : Prop :=
  (∀ w : Word, opcodeOf w = .add → slice w 5 1 = 0#1 → decode w = .addReg (Reg.ofBits (slice w 9 3)) (Reg.ofBits (slice w 6 3)) (Reg.ofBits (slice w 0 3))) ∧
  (∀ (dr sr1 sr2 : Reg) (s : State), ∃ t, exec (.addReg dr sr1 sr2) s = .next t ∧
    (t.reg dr).toNat = ((s.reg sr1).toNat + (s.reg sr2).toNat) % 65536 ∧ t.cond = condOf (t.reg dr) ∧ OnlyResult dr s t)

/-- ADD, immediate form (R122): as the register form, with the signed imm5. -/
def Obligations.AddImmediateAddsSignedImm5 : Prop :=
  (∀ w : Word, opcodeOf w = .add → slice w 5 1 = 1#1 → decode w = .addImm (Reg.ofBits (slice w 9 3)) (Reg.ofBits (slice w 6 3)) (slice w 0 5)) ∧
  (∀ (dr sr1 : Reg) (imm5 : BitVec 5) (s : State), ∃ t, exec (.addImm dr sr1 imm5) s = .next t ∧
    ((t.reg dr).toNat : Int) = (((s.reg sr1).toNat : Int) + imm5.toInt) % 65536 ∧ t.cond = condOf (t.reg dr) ∧
    OnlyResult dr s t)

/-- AND, register form (R123): each bit of DR is the conjunction of the sources' bits as they were, COND follows DR, nothing
else changes. -/
def Obligations.AndRegisterIsBitwise : Prop :=
  (∀ w : Word, opcodeOf w = .and → slice w 5 1 = 0#1 → decode w = .andReg (Reg.ofBits (slice w 9 3)) (Reg.ofBits (slice w 6 3)) (Reg.ofBits (slice w 0 3))) ∧
  (∀ (dr sr1 sr2 : Reg) (s : State), ∃ t, exec (.andReg dr sr1 sr2) s = .next t ∧
    (∀ k, k < 16 → (t.reg dr).getLsbD k = ((s.reg sr1).getLsbD k && (s.reg sr2).getLsbD k)) ∧
    t.cond = condOf (t.reg dr) ∧ OnlyResult dr s t)

/-- AND, immediate form (R124): as the register form, bits 4-0 with the field and bits 15-5 with its bit 4 (the sign
extension). -/
def Obligations.AndImmediateUsesSignExtendedImm5 : Prop :=
  (∀ w : Word, opcodeOf w = .and → slice w 5 1 = 1#1 → decode w = .andImm (Reg.ofBits (slice w 9 3)) (Reg.ofBits (slice w 6 3)) (slice w 0 5)) ∧
  (∀ (dr sr1 : Reg) (imm5 : BitVec 5) (s : State), ∃ t, exec (.andImm dr sr1 imm5) s = .next t ∧
    (∀ k, k < 16 → (t.reg dr).getLsbD k = ((s.reg sr1).getLsbD k && imm5.getLsbD (min k 4))) ∧
    t.cond = condOf (t.reg dr) ∧ OnlyResult dr s t)

/-- NOT (R125): DR is the complement of SR, which is 65535 minus its value; COND follows DR, nothing else changes. -/
def Obligations.NotComplements : Prop :=
  (∀ w : Word, opcodeOf w = .not → decode w = .notReg (Reg.ofBits (slice w 9 3)) (Reg.ofBits (slice w 6 3))) ∧
  (∀ (dr sr : Reg) (s : State), ∃ t, exec (.notReg dr sr) s = .next t ∧
    (t.reg dr).toNat = 65535 - (s.reg sr).toNat ∧ t.cond = condOf (t.reg dr) ∧ OnlyResult dr s t)

/-! ## Control transfer -/

/-- BR (R140): when the mask meets COND, PC moves by the signed offset from the incremented PC; else nothing moves. No flag is
written. -/
def Obligations.BranchTakenWhenMaskMeetsCond : Prop :=
  (∀ w : Word, opcodeOf w = .br → decode w = .br (slice w 9 3) (slice w 0 9)) ∧
  (∀ (nzp : BitVec 3) (off9 : BitVec 9) (s : State), ∃ t, exec (.br nzp off9) s = .next t ∧
    t.pc = (if nzp &&& s.cond.extractLsb' 0 3 ≠ 0#3 then s.pc + off9.signExtend 16 else s.pc) ∧ OnlyPcAnd [] s t)

/-- JMP (R142) and RET (R143): PC is the value of BaseR, R7 for RET; registers and COND are unchanged. -/
def Obligations.JmpAndRetGoToTheRegister : Prop :=
  (∀ w : Word, opcodeOf w = .jmp → decode w = (if slice w 6 3 = 7#3 then .ret else .jmp (Reg.ofBits (slice w 6 3)))) ∧
  (∀ (baseR : Reg) (s : State), ∃ t, exec (.jmp baseR) s = .next t ∧ t.pc = s.reg baseR ∧ OnlyPcAnd [] s t) ∧
  (∀ s : State, ∃ t, exec .ret s = .next t ∧ t.pc = s.reg .r7 ∧ OnlyPcAnd [] s t)

/-- JSR (R144): R7 is the incremented PC, PC moves by the signed PCoffset11, no flag is written. -/
def Obligations.JsrLinksAndBranches : Prop :=
  (∀ w : Word, opcodeOf w = .jsr → slice w 11 1 = 1#1 → decode w = .jsr (slice w 0 11)) ∧
  (∀ (off11 : BitVec 11) (s : State), ∃ t, exec (.jsr off11) s = .next t ∧ t.reg .r7 = s.pc ∧
    t.pc = s.pc + off11.signExtend 16 ∧ OnlyPcAnd [.r7] s t)

/-- JSRR (42_control.md R145): R7 is the incremented PC, then PC is BaseR; with BaseR = R7 that is the return address itself,
the spec's decision D5 (log 8). -/
def Obligations.JsrrLinksBeforeReadingBase : Prop :=
  (∀ w : Word, opcodeOf w = .jsr → slice w 11 1 = 0#1 → decode w = .jsrr (Reg.ofBits (slice w 6 3))) ∧
  (∀ (baseR : Reg) (s : State), ∃ t, exec (.jsrr baseR) s = .next t ∧ t.reg .r7 = s.pc ∧
    t.pc = (if baseR = .r7 then s.pc else s.reg baseR) ∧ OnlyPcAnd [.r7] s t)

/-! ## Loads and stores -/

/-- LD (R161): DR is the cell at the incremented PC plus the signed PCoffset9, COND follows DR, nothing else changes. -/
def Obligations.LdLoadsPcRelative : Prop :=
  (∀ w : Word, opcodeOf w = .ld → decode w = .ld (Reg.ofBits (slice w 9 3)) (slice w 0 9)) ∧
  (∀ (dr : Reg) (off9 : BitVec 9) (s : State), ∃ t, exec (.ld dr off9) s = .next t ∧
    t.reg dr = s.memRead (s.pc + off9.signExtend 16) ∧ t.cond = condOf (t.reg dr) ∧ OnlyResult dr s t)

/-- LDI (R162): DR is the cell whose address the cell at PC plus PCoffset9 holds, COND follows DR, nothing else changes. -/
def Obligations.LdiLoadsThroughPointer : Prop :=
  (∀ w : Word, opcodeOf w = .ldi → decode w = .ldi (Reg.ofBits (slice w 9 3)) (slice w 0 9)) ∧
  (∀ (dr : Reg) (off9 : BitVec 9) (s : State), ∃ t, exec (.ldi dr off9) s = .next t ∧
    t.reg dr = s.memRead (s.memRead (s.pc + off9.signExtend 16)) ∧ t.cond = condOf (t.reg dr) ∧ OnlyResult dr s t)

/-- LDR (R163): DR is the cell at BaseR, as it was, plus the signed offset6; COND follows DR, nothing else changes. -/
def Obligations.LdrLoadsBasePlusOffset : Prop :=
  (∀ w : Word, opcodeOf w = .ldr → decode w = .ldr (Reg.ofBits (slice w 9 3)) (Reg.ofBits (slice w 6 3)) (slice w 0 6)) ∧
  (∀ (dr baseR : Reg) (off6 : BitVec 6) (s : State), ∃ t, exec (.ldr dr baseR off6) s = .next t ∧
    t.reg dr = s.memRead (s.reg baseR + off6.signExtend 16) ∧ t.cond = condOf (t.reg dr) ∧ OnlyResult dr s t)

/-- LEA (R164): DR is PC plus the signed PCoffset9, the address itself; COND follows DR, nothing else changes. -/
def Obligations.LeaLoadsTheAddress : Prop :=
  (∀ w : Word, opcodeOf w = .lea → decode w = .lea (Reg.ofBits (slice w 9 3)) (slice w 0 9)) ∧
  (∀ (dr : Reg) (off9 : BitVec 9) (s : State), ∃ t, exec (.lea dr off9) s = .next t ∧
    t.reg dr = s.pc + off9.signExtend 16 ∧ t.cond = condOf (t.reg dr) ∧ OnlyResult dr s t)

/-- ST (R165): the cell at the PC-relative address, which is the address the meaning computes, holds SR's value; every
other cell, every register, COND and PC are unchanged. -/
def Obligations.StStoresPcRelative : Prop :=
  (∀ w : Word, opcodeOf w = .st → decode w = .st (Reg.ofBits (slice w 9 3)) (slice w 0 9)) ∧
  (∀ (sr : Reg) (off9 : BitVec 9) (s : State) (a : Word), a = s.pc + off9.signExtend 16 →
    storeAddress (.st sr off9) s = some a ∧ ∃ t, exec (.st sr off9) s = .next t ∧ t.memRead a = s.reg sr ∧
      SameMemoryBut a s t ∧ SameRegsBut [] s t ∧ t.cond = s.cond ∧ t.pc = s.pc ∧ SameHostSide s t)

/-- STI (R166): as ST, at the address that the cell at PC plus PCoffset9 holds before the write. -/
def Obligations.StiStoresThroughPointer : Prop :=
  (∀ w : Word, opcodeOf w = .sti → decode w = .sti (Reg.ofBits (slice w 9 3)) (slice w 0 9)) ∧
  (∀ (sr : Reg) (off9 : BitVec 9) (s : State) (a : Word), a = s.memRead (s.pc + off9.signExtend 16) →
    storeAddress (.sti sr off9) s = some a ∧ ∃ t, exec (.sti sr off9) s = .next t ∧ t.memRead a = s.reg sr ∧
      SameMemoryBut a s t ∧ SameRegsBut [] s t ∧ t.cond = s.cond ∧ t.pc = s.pc ∧ SameHostSide s t)

/-- STR (R167): as ST, at the value of BaseR plus the signed offset6; SR may be BaseR. -/
def Obligations.StrStoresBasePlusOffset : Prop :=
  (∀ w : Word, opcodeOf w = .str → decode w = .str (Reg.ofBits (slice w 9 3)) (Reg.ofBits (slice w 6 3)) (slice w 0 6)) ∧
  (∀ (sr baseR : Reg) (off6 : BitVec 6) (s : State) (a : Word), a = s.reg baseR + off6.signExtend 16 →
    storeAddress (.str sr baseR off6) s = some a ∧ ∃ t, exec (.str sr baseR off6) s = .next t ∧ t.memRead a = s.reg sr ∧
      SameMemoryBut a s t ∧ SameRegsBut [] s t ∧ t.cond = s.cond ∧ t.pc = s.pc ∧ SameHostSide s t)

/-! ## Reserved opcodes -/

/-- RTI (R190) and RES (R191) are no-ops: no register, COND, memory or PC beyond the increment changes, nothing passes between
the CORE and the host but the diagnostic event, which carries the word, and the run goes on. Recording that event is a
choice D10 leaves to a model (log 17). -/
def Obligations.RtiAndResAreNoOps : Prop :=
  (∀ w : Word, opcodeOf w = .rti → decode w = .rti (slice w 0 12)) ∧
  (∀ w : Word, opcodeOf w = .res → decode w = .res (slice w 0 12)) ∧
  (∀ (i : Instr) (s : State), (∃ low, i = .rti low) ∨ (∃ low, i = .res low) → ∃ t, exec i s = .next t ∧
    SameRegsBut [] s t ∧ SameMemory s t ∧ t.cond = s.cond ∧ t.pc = s.pc ∧ SameInput s t ∧ t.output = s.output ∧
    t.run = s.run ∧ t.service = s.service ∧ t.diag = s.diag ++ [.malformedInstruction (encode i)] ∧
    ({ t with diag := s.diag } : State) = s)

/-- The diagnostic of RTI and RES carries the whole fetched word, ignored bits and all (44_reserved.md R192: D10 allows a model to
record it; the model does, log 17). -/
def Obligations.MalformedDiagnosticCarriesTheWord : Prop :=
  ∀ (w : Word) (s : State), slice w 12 4 = 0x8#4 ∨ slice w 12 4 = 0xD#4 →
    ∃ t, exec (decode w) s = .next t ∧ t.diag = s.diag ++ [.malformedInstruction w]

/-! ## TRAP and the services -/

/-- TRAP with a vector outside 0x20 to 0x25 only saves the return address (45_trap.md R210; the spec's decision D8, log 10). R7,
PC and COND by R201 (D6, D7: log 9). -/
def Obligations.UnlistedTrapOnlySavesReturn : Prop :=
  ∀ (v : BitVec 8) (s : State), v.toNat < 0x20 ∨ 0x25 < v.toNat → ∃ t, exec (.trap v) s = .next t ∧
    TrapFrame [] s t ∧ t.cond = s.cond ∧ SameHostSide s t

/-- TRAP's sub-dispatch (45_trap.md R201): a listed vector is the service of its alias row (log 20). -/
def Obligations.ListedTrapVectorsSelectTheirServices : Prop :=
  ∀ s : State, exec (.trap 0x20#8) s = exec .getc s ∧ exec (.trap 0x21#8) s = exec .out s ∧
    exec (.trap 0x22#8) s = exec .puts s ∧ exec (.trap 0x23#8) s = exec .inChar s ∧
    exec (.trap 0x24#8) s = exec .putsp s ∧ exec (.trap 0x25#8) s = exec .halt s

/-- GETC (45_trap.md R202) with a byte from the host (D36): R0 is the byte zero-extended, COND follows it, nothing is written
to the output. R7 and PC by R201 (D6, D7: log 9); what the answer uses up is logs 15 and 23. -/
def Obligations.GetcReadsOneByteWithoutEcho : Prop :=
  ∀ (s : State) (b : Byte), s.hostAnswer = some (.byte b) → ∃ t, exec .getc s = .next t ∧
    (t.reg .r0).toNat = b.toNat ∧ t.cond = (if b = 0#8 then condZero else condPositive) ∧ TrapFrame [.r0] s t ∧
    t.output = s.output ∧ t.run = s.run ∧ t.service = none ∧ t.input = s.input.tail ∧ t.inputPos = s.inputPos + 1

/-- IN (45_trap.md R206) with a byte from the host (D36): the prompt, whatever its bytes are (D13: log 14), then the echo and a
flush; R0 and COND as GETC (D29: log 25). R7 and PC by R201 (D6, D7: log 9); what the answer uses up is logs 15 and 23. -/
def Obligations.InPromptsReadsAndEchoes : Prop :=
  ∀ (s : State) (b : Byte), s.hostAnswer = some (.byte b) → ∃ t, exec .inChar s = .next t ∧
    (t.reg .r0).toNat = b.toNat ∧ t.cond = (if b = 0#8 then condZero else condPositive) ∧ TrapFrame [.r0] s t ∧
    t.output = s.output ++ Config.inPrompt.map .byte ++ [.byte b, .flush] ∧ t.run = s.run ∧ t.service = none ∧
    t.input = s.input.tail ∧ t.inputPos = s.inputPos + 1

/-- Input failure (60_exceptions.md R231): GETC and IN end in IO_FAULT, which is a fault; R7 (and IN's prompt, unflushed) stays
written; R0, COND, memory and PC beyond the increment are unchanged; no further step changes anything (D15: log 16). R7 and
PC by R201 (D6, D7: log 9). A failure of a read already under way is in UnansweredReadWaits. -/
def Obligations.InputFailureEndsInIoFault : Prop :=
  ∀ s : State, s.hostAnswer = some .failure →
    (∃ t, exec .getc s = .next t ∧ t.run = .ioFault ∧ t.faultOf = some .ioFailure ∧ t.cleanEnd = false ∧
      TrapFrame [] s t ∧ t.cond = s.cond ∧ t.output = s.output ∧ step t = .next t) ∧
    (∃ t, exec .inChar s = .next t ∧ t.run = .ioFault ∧ t.faultOf = some .ioFailure ∧ t.cleanEnd = false ∧
      TrapFrame [] s t ∧ t.cond = s.cond ∧ t.output = s.output ++ Config.inPrompt.map .byte ∧ step t = .next t)

/-- While the host has not answered, GETC and IN wait (45_trap.md R200: with no time limit): R7 (and IN's prompt) is written, R0,
COND and memory are not, and the run stays RUNNING. Each further step asks again: with still no answer nothing but the
host's side changes; a failure ends the run in IO_FAULT with R0 and COND unchanged (60_exceptions.md R231, D15: log 16);
a byte completes the read, in IN with its echo and no second prompt. The form of waiting is log 13, what an answer uses
up logs 15 and 23, PC and COND at the R7 write D6 and D7 (log 9). -/
def Obligations.UnansweredReadWaits : Prop :=
  (∀ s : State, s.hostAnswer = none →
    (∃ t, exec .getc s = .next t ∧ t.service = some .getc ∧ t.run = s.run ∧ TrapFrame [] s t ∧ t.cond = s.cond ∧
      t.output = s.output ∧ t.input = s.input.tail ∧ t.inputPos = s.inputPos) ∧
    (∃ t, exec .inChar s = .next t ∧ t.service = some .inChar ∧ t.run = s.run ∧ TrapFrame [] s t ∧ t.cond = s.cond ∧
      t.output = s.output ++ Config.inPrompt.map .byte ∧ t.input = s.input.tail ∧ t.inputPos = s.inputPos)) ∧
  (∀ (s : State) (sv : Service), s.run = .running → s.service = some sv → sv = .getc ∨ sv = .inChar →
    (s.hostAnswer = none → ∃ t, step s = .next t ∧ t.service = some sv ∧ t.run = .running ∧ NoByteTaken s t) ∧
    (s.hostAnswer = some .failure → ∃ t, step s = .next t ∧ t.service = none ∧ t.run = .ioFault ∧
      t.faultOf = some .ioFailure ∧ t.cleanEnd = false ∧ NoByteTaken s t ∧ step t = .next t) ∧
    (∀ b : Byte, s.hostAnswer = some (.byte b) → ∃ t, step s = .next t ∧ t.service = none ∧ t.run = .running ∧
      (t.reg .r0).toNat = b.toNat ∧ t.cond = condOf (t.reg .r0) ∧ SameRegsBut [.r0] s t ∧ t.pc = s.pc ∧
      SameMemory s t ∧ t.output = s.output ++ (if sv = .inChar then [.byte b, .flush] else []) ∧ t.diag = s.diag ∧
      t.input = s.input.tail ∧ t.inputPos = s.inputPos + 1))

/-- OUT (45_trap.md R203): the low byte of R0, then a flush; no register but R7 is written and no flag. R7 and PC by R201 (D6,
D7: log 9). -/
def Obligations.OutWritesLowByteOfR0 : Prop :=
  ∀ s : State, ∃ t, exec .out s = .next t ∧
    t.output = s.output ++ [.byte (BitVec.ofNat 8 ((s.reg .r0).toNat % 256)), .flush] ∧ TrapFrame [] s t ∧
    t.cond = s.cond ∧ SameInput s t ∧ t.run = s.run ∧ t.service = s.service

/-- PUTS (45_trap.md R204): from the cell R0 points at, the low byte of each cell up to the first zero cell, then a flush; the
scan wraps (D11: log 11), R0 and COND are unchanged. R7 and PC by R201 (D6, D7: log 9). -/
def Obligations.PutsWritesCellsUpToZero : Prop :=
  ∀ (s : State) (n : Nat), n < 65536 → (∀ k, k < n → s.memRead (s.reg .r0 + BitVec.ofNat 16 k) ≠ 0#16) →
    s.memRead (s.reg .r0 + BitVec.ofNat 16 n) = 0#16 → ∃ t, exec .puts s = .next t ∧
      t.output = s.output ++
        ((List.range n).map fun k => OutEvent.byte (lowByte (s.memRead (s.reg .r0 + BitVec.ofNat 16 k)))) ++ [.flush] ∧
      TrapFrame [] s t ∧ t.cond = s.cond ∧ SameInput s t ∧ t.run = s.run ∧ t.service = none

/-- PUTSP (45_trap.md R207, R208; where it stops is the spec's decision D12, log 12): two bytes of each cell, low byte first, up to
the first zero byte, low or high, then a flush. R7 and PC by R201 (D6, D7: log 9). -/
def Obligations.PutspWritesBytesUpToZero : Prop :=
  ∀ (s : State) (n : Nat), n < 65536 →
    (∀ k, k < n → lowByte (s.memRead (s.reg .r0 + BitVec.ofNat 16 k)) ≠ 0#8 ∧
      highByte (s.memRead (s.reg .r0 + BitVec.ofNat 16 k)) ≠ 0#8) →
    lowByte (s.memRead (s.reg .r0 + BitVec.ofNat 16 n)) = 0#8 ∨ highByte (s.memRead (s.reg .r0 + BitVec.ofNat 16 n)) = 0#8 →
    ∃ t, exec .putsp s = .next t ∧
      t.output = s.output ++
        ((List.range n).flatMap fun k => [OutEvent.byte (lowByte (s.memRead (s.reg .r0 + BitVec.ofNat 16 k))),
          OutEvent.byte (highByte (s.memRead (s.reg .r0 + BitVec.ofNat 16 k)))]) ++
        (if lowByte (s.memRead (s.reg .r0 + BitVec.ofNat 16 n)) = 0#8 then []
          else [OutEvent.byte (lowByte (s.memRead (s.reg .r0 + BitVec.ofNat 16 n)))]) ++ [.flush] ∧
      TrapFrame [] s t ∧ t.cond = s.cond ∧ SameInput s t ∧ t.run = s.run ∧ t.service = none

/-- A PUTS with no zero cell in memory, and a PUTSP with no zero byte, never complete (45_trap.md R205, R208; D11, D12: logs 11,
12): from a RUNNING machine, after any number of further steps the run is still RUNNING inside the TRAP, R7 as it left it,
PC and COND unchanged (D6, D7: log 9), and the output has grown by a lap of memory each (one step a lap: the model's
choice, log 13). -/
def Obligations.UnterminatedStringNeverEnds : Prop :=
  ∀ (s : State) (k : Nat), s.run = .running →
    ((∀ a, s.memRead a ≠ 0#16) → ∃ t u, exec .puts s = .next t ∧ Host.Core.run Sys2Proof.core k t = .next u ∧
      u.run = .running ∧ u.executing = .puts ∧ u.output.length = s.output.length + (k + 1) * 65536 ∧
      TrapFrame [] s u ∧ u.cond = s.cond) ∧
    ((∀ a, lowByte (s.memRead a) ≠ 0#8 ∧ highByte (s.memRead a) ≠ 0#8) → ∃ t u, exec .putsp s = .next t ∧
      Host.Core.run Sys2Proof.core k t = .next u ∧ u.run = .running ∧ u.executing = .putsp ∧
      u.output.length = s.output.length + (k + 1) * 131072 ∧ TrapFrame [] s u ∧ u.cond = s.cond)

/-- HALT (45_trap.md R209): the notice, whatever its bytes are (D14: log 14), a flush, and HALTED, which is a clean end; R7 is
written, COND is not, and no further step changes anything. R7 and PC by R201 (D6, D7: log 9). -/
def Obligations.HaltNotifiesAndHalts : Prop :=
  ∀ s : State, ∃ t, exec .halt s = .next t ∧ t.run = .halted ∧ t.cleanEnd = true ∧ t.faultOf = none ∧
    t.output = s.output ++ Config.haltNotice.map .byte ++ [.flush] ∧ TrapFrame [] s t ∧ t.cond = s.cond ∧
    SameInput s t ∧ t.service = s.service ∧ step t = .next t

/-! ## Reset -/

/-- The state after reset, and of a launch with any memory (10_state.md section 6, 70_reset_and_hazards.md section 1). That COND is
ZERO is D3 (log 6), that the trace is empty D16 (log 18); that the input list and its position and the diagnostics start
empty are the model's choices (logs 15, 17), and no service under way is log 13. PC is D19 (log 26). -/
def Obligations.ResetValues : Prop :=
  (∀ r, State.reset.reg r = 0#16) ∧ State.reset.pc = 0x3000#16 ∧ State.reset.cond = condZero ∧
  State.reset.run = .running ∧ State.reset.output = [] ∧ State.reset.service = none ∧
  State.reset.input = [] ∧ State.reset.inputPos = 0 ∧ State.reset.diag = [] ∧
  ∀ mem0 : Memory, (State.launch mem0).mem = mem0 ∧ ({ State.launch mem0 with mem := ⟨[]⟩ } : State) = State.reset

/-- Reset does not change memory (R262): the memory holds what the host and the run put there, at every address. -/
def Obligations.ResetKeepsMemory : Prop :=
  (∀ (s : State) (a : Word), s.assertReset.memRead a = s.memRead a) ∧
  (∀ (mem0 : Memory) (a : Word), (State.launch mem0).memRead a = mem0.read a)

/-- Asserting rst gives the reset values from any state, HALTED and IO_FAULT included, and the next step fetches from 0x3000
(70_reset_and_hazards.md section 1; the reset input is D31). COND is D3 (log 6), the empty trace D16 (log 18), the start PC
D19 (log 26); that the next step fetches at once, even where a service was under way, is log 22 (R263). -/
def Obligations.AssertedResetStartsAfresh : Prop :=
  ∀ s : State, (∀ r, s.assertReset.reg r = 0#16) ∧ s.assertReset.pc = 0x3000#16 ∧ s.assertReset.cond = condZero ∧
    s.assertReset.run = .running ∧ s.assertReset.output = [] ∧
    step s.assertReset = exec (decode (s.memRead 0x3000#16)) (s.assertReset.setPc 0x3001#16)
end

