-- ==== Sys2Proof/Laws/Decode.lean ====
section
/-! SUPPORT. Codes and their bits, and the fields of each format's words: what the round trip of the encoder rests on. -/

namespace Sys2Proof

@[simp] theorem Reg.ofBits_bits (r : Reg) : Reg.ofBits r.bits = r := by cases r <;> rfl

@[simp] theorem Reg.bits_ofBits (b : BitVec 3) : (Reg.ofBits b).bits = b := by revert b; decide

@[simp] theorem Opcode.ofBits_bits (o : Opcode) : Opcode.ofBits o.bits = o := by cases o <;> rfl

@[simp] theorem Opcode.bits_ofBits (b : BitVec 4) : (Opcode.ofBits b).bits = b := by revert b; decide

/-! Bits of a concatenation -/

/-- A bit of a field of the left-hand part. -/
theorem append_getLsbD_high {m n : Nat} (x : BitVec m) (y : BitVec n) (k i : Nat) :
    (x ++ y).getLsbD (n + k + i) = x.getLsbD (k + i) := by
  have h : ¬ n + k + i < n := by omega
  have e : n + k + i - n = k + i := by omega
  simp only [BitVec.getLsbD_append, h, if_false, e]

/-- A bit of a field of the right-hand part. -/
theorem append_getLsbD_low {m n : Nat} (x : BitVec m) (y : BitVec n) (j : Nat) (h : j < n) :
    (x ++ y).getLsbD j = y.getLsbD j := by
  simp only [BitVec.getLsbD_append, h, if_true]

/-! Opcode and twelve bits -/

@[simp] theorem opcodeOf_format12 (op : Opcode) (low : BitVec 12) : opcodeOf (format12 op low) = op := by
  have h : slice (format12 op low) 12 4 = op.bits := by
    refine BitVec.eq_of_getLsbD_eq fun i hi => ?_
    have e := append_getLsbD_high op.bits low 0 i
    simp only [Nat.zero_add, Nat.add_zero] at e
    simp only [slice, BitVec.getLsbD_extractLsb', hi, decide_true, Bool.true_and]
    exact e
  rw [opcodeOf, h, Opcode.ofBits_bits]

/-- A field of the low twelve bits does not see the opcode. -/
theorem slice_format12 (op : Opcode) (low : BitVec 12) (lo len : Nat) (h : lo + len ≤ 12) :
    slice (format12 op low) lo len = low.extractLsb' lo len := by
  refine BitVec.eq_of_getLsbD_eq fun i hi => ?_
  have e := append_getLsbD_low op.bits low (lo + i) (by omega)
  simp only [slice, BitVec.getLsbD_extractLsb', hi, decide_true, Bool.true_and]
  exact e

@[simp] theorem slice_format12_all (op : Opcode) (low : BitVec 12) : slice (format12 op low) 0 12 = low := by
  rw [slice_format12 op low 0 12 (by omega)]; simp

/-! Format of a 3-bit field and a PCoffset9 -/

@[simp] theorem opcodeOf_format9 (op : Opcode) (a : BitVec 3) (o : BitVec 9) : opcodeOf (format9 op a o) = op :=
  opcodeOf_format12 op _

@[simp] theorem slice_format9_field (op : Opcode) (a : BitVec 3) (o : BitVec 9) : slice (format9 op a o) 9 3 = a := by
  rw [format9, slice_format12 op _ 9 3 (by omega)]
  refine BitVec.eq_of_getLsbD_eq fun i hi => ?_
  have e := append_getLsbD_high a o 0 i
  simp only [Nat.zero_add, Nat.add_zero] at e
  simp only [BitVec.getLsbD_extractLsb', hi, decide_true, Bool.true_and]
  exact e

@[simp] theorem slice_format9_off9 (op : Opcode) (a : BitVec 3) (o : BitVec 9) : slice (format9 op a o) 0 9 = o := by
  rw [format9, slice_format12 op _ 0 9 (by omega)]
  refine BitVec.eq_of_getLsbD_eq fun i hi => ?_
  have e := append_getLsbD_low a o i hi
  simp only [BitVec.getLsbD_extractLsb', hi, decide_true, Bool.true_and, Nat.zero_add]
  exact e

/-! Format of two 3-bit fields and six bits -/

@[simp] theorem opcodeOf_format6 (op : Opcode) (a b : BitVec 3) (c : BitVec 6) : opcodeOf (format6 op a b c) = op :=
  opcodeOf_format12 op _

@[simp] theorem slice_format6_high (op : Opcode) (a b : BitVec 3) (c : BitVec 6) : slice (format6 op a b c) 9 3 = a := by
  rw [format6, slice_format12 op _ 9 3 (by omega)]
  refine BitVec.eq_of_getLsbD_eq fun i hi => ?_
  have e := append_getLsbD_high a (b ++ c) 0 i
  simp only [Nat.zero_add, Nat.add_zero] at e
  simp only [BitVec.getLsbD_extractLsb', hi, decide_true, Bool.true_and]
  exact e

@[simp] theorem slice_format6_mid (op : Opcode) (a b : BitVec 3) (c : BitVec 6) : slice (format6 op a b c) 6 3 = b := by
  rw [format6, slice_format12 op _ 6 3 (by omega)]
  refine BitVec.eq_of_getLsbD_eq fun i hi => ?_
  have e := append_getLsbD_low a (b ++ c) (6 + i) (by omega)
  have e' := append_getLsbD_high b c 0 i
  simp only [Nat.zero_add, Nat.add_zero] at e'
  simp only [BitVec.getLsbD_extractLsb', hi, decide_true, Bool.true_and]
  exact e.trans e'

/-- A field of the low six bits does not see the rest. -/
theorem slice_format6_low (op : Opcode) (a b : BitVec 3) (c : BitVec 6) (lo len : Nat) (h : lo + len ≤ 6) :
    slice (format6 op a b c) lo len = c.extractLsb' lo len := by
  rw [format6, slice_format12 op _ lo len (by omega)]
  refine BitVec.eq_of_getLsbD_eq fun i hi => ?_
  have e := append_getLsbD_low a (b ++ c) (lo + i) (by omega)
  have e' := append_getLsbD_low b c (lo + i) (by omega)
  simp only [BitVec.getLsbD_extractLsb', hi, decide_true, Bool.true_and]
  exact e.trans e'

@[simp] theorem slice_format6_off6 (op : Opcode) (a b : BitVec 3) (c : BitVec 6) : slice (format6 op a b c) 0 6 = c := by
  rw [slice_format6_low op a b c 0 6 (by omega)]; simp

/-! The small forms -/

theorem registerForm_flag (sr2 : Reg) : (registerForm sr2).extractLsb' 5 1 = 0#1 := by cases sr2 <;> rfl

theorem registerForm_sr2 (sr2 : Reg) : (registerForm sr2).extractLsb' 0 3 = sr2.bits := by cases sr2 <;> rfl

theorem immediateForm_flag (imm5 : BitVec 5) : (immediateForm imm5).extractLsb' 5 1 = 1#1 := by revert imm5; decide

theorem immediateForm_imm5 (imm5 : BitVec 5) : (immediateForm imm5).extractLsb' 0 5 = imm5 := by revert imm5; decide

theorem trapForm_vect8 (v : BitVec 8) : (trapForm v).extractLsb' 0 8 = v := by
  refine BitVec.eq_of_getLsbD_eq fun i hi => ?_
  have e := append_getLsbD_low 0#4 v i hi
  simp only [BitVec.getLsbD_extractLsb', hi, decide_true, Bool.true_and, Nat.zero_add]
  exact e

theorem jsrForm_flag (o : BitVec 11) : (jsrForm o).extractLsb' 11 1 = 1#1 := by
  refine BitVec.eq_of_getLsbD_eq fun i hi => ?_
  have e := append_getLsbD_high 1#1 o 0 i
  simp only [Nat.zero_add, Nat.add_zero] at e
  simp only [BitVec.getLsbD_extractLsb', hi, decide_true, Bool.true_and]
  exact e

theorem jsrForm_off11 (o : BitVec 11) : (jsrForm o).extractLsb' 0 11 = o := by
  refine BitVec.eq_of_getLsbD_eq fun i hi => ?_
  have e := append_getLsbD_low 1#1 o i hi
  simp only [BitVec.getLsbD_extractLsb', hi, decide_true, Bool.true_and, Nat.zero_add]
  exact e

end Sys2Proof
end

