-- ==== Sys2Proof/Laws/State.lean ====
section
/-! SUPPORT. What each update of the state does to each field, true by rfl, so that no proof unfolds a record update. -/

namespace Sys2Proof.Machine

variable (s : State)

/-! setReg -/

@[simp] theorem State.setReg_regs (r : Reg) (v : Word) : (s.setReg r v).regs = s.regs.set r v := rfl
@[simp] theorem State.setReg_pc (r : Reg) (v : Word) : (s.setReg r v).pc = s.pc := rfl
@[simp] theorem State.setReg_cond (r : Reg) (v : Word) : (s.setReg r v).cond = s.cond := rfl
@[simp] theorem State.setReg_run (r : Reg) (v : Word) : (s.setReg r v).run = s.run := rfl
@[simp] theorem State.setReg_mem (r : Reg) (v : Word) : (s.setReg r v).mem = s.mem := rfl
@[simp] theorem State.setReg_output (r : Reg) (v : Word) : (s.setReg r v).output = s.output := rfl
@[simp] theorem State.setReg_input (r : Reg) (v : Word) : (s.setReg r v).input = s.input := rfl
@[simp] theorem State.setReg_inputPos (r : Reg) (v : Word) : (s.setReg r v).inputPos = s.inputPos := rfl
@[simp] theorem State.setReg_service (r : Reg) (v : Word) : (s.setReg r v).service = s.service := rfl
@[simp] theorem State.setReg_diag (r : Reg) (v : Word) : (s.setReg r v).diag = s.diag := rfl
@[simp] theorem State.setReg_draws (r : Reg) (v : Word) : (s.setReg r v).draws = s.draws := rfl
@[simp] theorem State.setReg_memRead (r : Reg) (v : Word) (c : Word) : (s.setReg r v).memRead c = s.memRead c := rfl

/-! setPc -/

@[simp] theorem State.setPc_regs (v : Word) : (s.setPc v).regs = s.regs := rfl
@[simp] theorem State.setPc_pc (v : Word) : (s.setPc v).pc = v := rfl
@[simp] theorem State.setPc_cond (v : Word) : (s.setPc v).cond = s.cond := rfl
@[simp] theorem State.setPc_run (v : Word) : (s.setPc v).run = s.run := rfl
@[simp] theorem State.setPc_mem (v : Word) : (s.setPc v).mem = s.mem := rfl
@[simp] theorem State.setPc_output (v : Word) : (s.setPc v).output = s.output := rfl
@[simp] theorem State.setPc_input (v : Word) : (s.setPc v).input = s.input := rfl
@[simp] theorem State.setPc_inputPos (v : Word) : (s.setPc v).inputPos = s.inputPos := rfl
@[simp] theorem State.setPc_service (v : Word) : (s.setPc v).service = s.service := rfl
@[simp] theorem State.setPc_diag (v : Word) : (s.setPc v).diag = s.diag := rfl
@[simp] theorem State.setPc_draws (v : Word) : (s.setPc v).draws = s.draws := rfl
@[simp] theorem State.setPc_reg (v : Word) (q : Reg) : (s.setPc v).reg q = s.reg q := rfl
@[simp] theorem State.setPc_memRead (v : Word) (c : Word) : (s.setPc v).memRead c = s.memRead c := rfl

/-! setCond -/

@[simp] theorem State.setCond_regs (v : Word) : (s.setCond v).regs = s.regs := rfl
@[simp] theorem State.setCond_pc (v : Word) : (s.setCond v).pc = s.pc := rfl
@[simp] theorem State.setCond_cond (v : Word) : (s.setCond v).cond = v := rfl
@[simp] theorem State.setCond_run (v : Word) : (s.setCond v).run = s.run := rfl
@[simp] theorem State.setCond_mem (v : Word) : (s.setCond v).mem = s.mem := rfl
@[simp] theorem State.setCond_output (v : Word) : (s.setCond v).output = s.output := rfl
@[simp] theorem State.setCond_input (v : Word) : (s.setCond v).input = s.input := rfl
@[simp] theorem State.setCond_inputPos (v : Word) : (s.setCond v).inputPos = s.inputPos := rfl
@[simp] theorem State.setCond_service (v : Word) : (s.setCond v).service = s.service := rfl
@[simp] theorem State.setCond_diag (v : Word) : (s.setCond v).diag = s.diag := rfl
@[simp] theorem State.setCond_draws (v : Word) : (s.setCond v).draws = s.draws := rfl
@[simp] theorem State.setCond_reg (v : Word) (q : Reg) : (s.setCond v).reg q = s.reg q := rfl
@[simp] theorem State.setCond_memRead (v : Word) (c : Word) : (s.setCond v).memRead c = s.memRead c := rfl

/-! memWrite -/

@[simp] theorem State.memWrite_regs (a v : Word) : (s.memWrite a v).regs = s.regs := rfl
@[simp] theorem State.memWrite_pc (a v : Word) : (s.memWrite a v).pc = s.pc := rfl
@[simp] theorem State.memWrite_cond (a v : Word) : (s.memWrite a v).cond = s.cond := rfl
@[simp] theorem State.memWrite_run (a v : Word) : (s.memWrite a v).run = s.run := rfl
@[simp] theorem State.memWrite_mem (a v : Word) : (s.memWrite a v).mem = s.mem.write a v := rfl
@[simp] theorem State.memWrite_output (a v : Word) : (s.memWrite a v).output = s.output := rfl
@[simp] theorem State.memWrite_input (a v : Word) : (s.memWrite a v).input = s.input := rfl
@[simp] theorem State.memWrite_inputPos (a v : Word) : (s.memWrite a v).inputPos = s.inputPos := rfl
@[simp] theorem State.memWrite_service (a v : Word) : (s.memWrite a v).service = s.service := rfl
@[simp] theorem State.memWrite_diag (a v : Word) : (s.memWrite a v).diag = s.diag := rfl
@[simp] theorem State.memWrite_draws (a v : Word) : (s.memWrite a v).draws = s.draws := rfl
@[simp] theorem State.memWrite_reg (a v : Word) (q : Reg) : (s.memWrite a v).reg q = s.reg q := rfl

/-! writeByte -/

@[simp] theorem State.writeByte_regs (b : Byte) : (s.writeByte b).regs = s.regs := rfl
@[simp] theorem State.writeByte_pc (b : Byte) : (s.writeByte b).pc = s.pc := rfl
@[simp] theorem State.writeByte_cond (b : Byte) : (s.writeByte b).cond = s.cond := rfl
@[simp] theorem State.writeByte_run (b : Byte) : (s.writeByte b).run = s.run := rfl
@[simp] theorem State.writeByte_mem (b : Byte) : (s.writeByte b).mem = s.mem := rfl
@[simp] theorem State.writeByte_output (b : Byte) : (s.writeByte b).output = s.output ++ [.byte b] := rfl
@[simp] theorem State.writeByte_input (b : Byte) : (s.writeByte b).input = s.input := rfl
@[simp] theorem State.writeByte_inputPos (b : Byte) : (s.writeByte b).inputPos = s.inputPos := rfl
@[simp] theorem State.writeByte_service (b : Byte) : (s.writeByte b).service = s.service := rfl
@[simp] theorem State.writeByte_diag (b : Byte) : (s.writeByte b).diag = s.diag := rfl
@[simp] theorem State.writeByte_draws (b : Byte) : (s.writeByte b).draws = s.draws := rfl
@[simp] theorem State.writeByte_reg (b : Byte) (q : Reg) : (s.writeByte b).reg q = s.reg q := rfl
@[simp] theorem State.writeByte_memRead (b : Byte) (c : Word) : (s.writeByte b).memRead c = s.memRead c := rfl

/-! writeBytes -/

@[simp] theorem State.writeBytes_regs (bs : List Byte) : (s.writeBytes bs).regs = s.regs := rfl
@[simp] theorem State.writeBytes_pc (bs : List Byte) : (s.writeBytes bs).pc = s.pc := rfl
@[simp] theorem State.writeBytes_cond (bs : List Byte) : (s.writeBytes bs).cond = s.cond := rfl
@[simp] theorem State.writeBytes_run (bs : List Byte) : (s.writeBytes bs).run = s.run := rfl
@[simp] theorem State.writeBytes_mem (bs : List Byte) : (s.writeBytes bs).mem = s.mem := rfl
@[simp] theorem State.writeBytes_output (bs : List Byte) : (s.writeBytes bs).output = s.output ++ bs.map .byte := rfl
@[simp] theorem State.writeBytes_input (bs : List Byte) : (s.writeBytes bs).input = s.input := rfl
@[simp] theorem State.writeBytes_inputPos (bs : List Byte) : (s.writeBytes bs).inputPos = s.inputPos := rfl
@[simp] theorem State.writeBytes_service (bs : List Byte) : (s.writeBytes bs).service = s.service := rfl
@[simp] theorem State.writeBytes_diag (bs : List Byte) : (s.writeBytes bs).diag = s.diag := rfl
@[simp] theorem State.writeBytes_draws (bs : List Byte) : (s.writeBytes bs).draws = s.draws := rfl
@[simp] theorem State.writeBytes_reg (bs : List Byte) (q : Reg) : (s.writeBytes bs).reg q = s.reg q := rfl
@[simp] theorem State.writeBytes_memRead (bs : List Byte) (c : Word) : (s.writeBytes bs).memRead c = s.memRead c := rfl

/-! flush -/

@[simp] theorem State.flush_regs : (s.flush).regs = s.regs := rfl
@[simp] theorem State.flush_pc : (s.flush).pc = s.pc := rfl
@[simp] theorem State.flush_cond : (s.flush).cond = s.cond := rfl
@[simp] theorem State.flush_run : (s.flush).run = s.run := rfl
@[simp] theorem State.flush_mem : (s.flush).mem = s.mem := rfl
@[simp] theorem State.flush_output : (s.flush).output = s.output ++ [.flush] := rfl
@[simp] theorem State.flush_input : (s.flush).input = s.input := rfl
@[simp] theorem State.flush_inputPos : (s.flush).inputPos = s.inputPos := rfl
@[simp] theorem State.flush_service : (s.flush).service = s.service := rfl
@[simp] theorem State.flush_diag : (s.flush).diag = s.diag := rfl
@[simp] theorem State.flush_draws : (s.flush).draws = s.draws := rfl
@[simp] theorem State.flush_reg (q : Reg) : (s.flush).reg q = s.reg q := rfl
@[simp] theorem State.flush_memRead (c : Word) : (s.flush).memRead c = s.memRead c := rfl

/-! setService -/

@[simp] theorem State.setService_regs (sv : Option Service) : (s.setService sv).regs = s.regs := rfl
@[simp] theorem State.setService_pc (sv : Option Service) : (s.setService sv).pc = s.pc := rfl
@[simp] theorem State.setService_cond (sv : Option Service) : (s.setService sv).cond = s.cond := rfl
@[simp] theorem State.setService_run (sv : Option Service) : (s.setService sv).run = s.run := rfl
@[simp] theorem State.setService_mem (sv : Option Service) : (s.setService sv).mem = s.mem := rfl
@[simp] theorem State.setService_output (sv : Option Service) : (s.setService sv).output = s.output := rfl
@[simp] theorem State.setService_input (sv : Option Service) : (s.setService sv).input = s.input := rfl
@[simp] theorem State.setService_inputPos (sv : Option Service) : (s.setService sv).inputPos = s.inputPos := rfl
@[simp] theorem State.setService_service (sv : Option Service) : (s.setService sv).service = sv := rfl
@[simp] theorem State.setService_diag (sv : Option Service) : (s.setService sv).diag = s.diag := rfl
@[simp] theorem State.setService_draws (sv : Option Service) : (s.setService sv).draws = s.draws := rfl
@[simp] theorem State.setService_reg (sv : Option Service) (q : Reg) : (s.setService sv).reg q = s.reg q := rfl
@[simp] theorem State.setService_memRead (sv : Option Service) (c : Word) : (s.setService sv).memRead c = s.memRead c := rfl

/-! haltRun -/

@[simp] theorem State.haltRun_regs : (s.haltRun).regs = s.regs := rfl
@[simp] theorem State.haltRun_pc : (s.haltRun).pc = s.pc := rfl
@[simp] theorem State.haltRun_cond : (s.haltRun).cond = s.cond := rfl
@[simp] theorem State.haltRun_run : (s.haltRun).run = .halted := rfl
@[simp] theorem State.haltRun_mem : (s.haltRun).mem = s.mem := rfl
@[simp] theorem State.haltRun_output : (s.haltRun).output = s.output := rfl
@[simp] theorem State.haltRun_input : (s.haltRun).input = s.input := rfl
@[simp] theorem State.haltRun_inputPos : (s.haltRun).inputPos = s.inputPos := rfl
@[simp] theorem State.haltRun_service : (s.haltRun).service = s.service := rfl
@[simp] theorem State.haltRun_diag : (s.haltRun).diag = s.diag := rfl
@[simp] theorem State.haltRun_draws : (s.haltRun).draws = s.draws := rfl
@[simp] theorem State.haltRun_reg (q : Reg) : (s.haltRun).reg q = s.reg q := rfl
@[simp] theorem State.haltRun_memRead (c : Word) : (s.haltRun).memRead c = s.memRead c := rfl

/-! raiseIOFailure -/

@[simp] theorem State.raiseIOFailure_regs : (s.raiseIOFailure).regs = s.regs := rfl
@[simp] theorem State.raiseIOFailure_pc : (s.raiseIOFailure).pc = s.pc := rfl
@[simp] theorem State.raiseIOFailure_cond : (s.raiseIOFailure).cond = s.cond := rfl
@[simp] theorem State.raiseIOFailure_run : (s.raiseIOFailure).run = .ioFault := rfl
@[simp] theorem State.raiseIOFailure_mem : (s.raiseIOFailure).mem = s.mem := rfl
@[simp] theorem State.raiseIOFailure_output : (s.raiseIOFailure).output = s.output := rfl
@[simp] theorem State.raiseIOFailure_input : (s.raiseIOFailure).input = s.input := rfl
@[simp] theorem State.raiseIOFailure_inputPos : (s.raiseIOFailure).inputPos = s.inputPos := rfl
@[simp] theorem State.raiseIOFailure_service : (s.raiseIOFailure).service = s.service := rfl
@[simp] theorem State.raiseIOFailure_diag : (s.raiseIOFailure).diag = s.diag := rfl
@[simp] theorem State.raiseIOFailure_draws : (s.raiseIOFailure).draws = s.draws := rfl
@[simp] theorem State.raiseIOFailure_reg (q : Reg) : (s.raiseIOFailure).reg q = s.reg q := rfl
@[simp] theorem State.raiseIOFailure_memRead (c : Word) : (s.raiseIOFailure).memRead c = s.memRead c := rfl

/-! emitMalformed -/

@[simp] theorem State.emitMalformed_regs (ir : Word) : (s.emitMalformed ir).regs = s.regs := rfl
@[simp] theorem State.emitMalformed_pc (ir : Word) : (s.emitMalformed ir).pc = s.pc := rfl
@[simp] theorem State.emitMalformed_cond (ir : Word) : (s.emitMalformed ir).cond = s.cond := rfl
@[simp] theorem State.emitMalformed_run (ir : Word) : (s.emitMalformed ir).run = s.run := rfl
@[simp] theorem State.emitMalformed_mem (ir : Word) : (s.emitMalformed ir).mem = s.mem := rfl
@[simp] theorem State.emitMalformed_output (ir : Word) : (s.emitMalformed ir).output = s.output := rfl
@[simp] theorem State.emitMalformed_input (ir : Word) : (s.emitMalformed ir).input = s.input := rfl
@[simp] theorem State.emitMalformed_inputPos (ir : Word) : (s.emitMalformed ir).inputPos = s.inputPos := rfl
@[simp] theorem State.emitMalformed_service (ir : Word) : (s.emitMalformed ir).service = s.service := rfl
@[simp] theorem State.emitMalformed_diag (ir : Word) : (s.emitMalformed ir).diag = s.diag ++ [.malformedInstruction ir] := rfl
@[simp] theorem State.emitMalformed_draws (ir : Word) : (s.emitMalformed ir).draws = s.draws := rfl
@[simp] theorem State.emitMalformed_reg (ir : Word) (q : Reg) : (s.emitMalformed ir).reg q = s.reg q := rfl
@[simp] theorem State.emitMalformed_memRead (ir : Word) (c : Word) : (s.emitMalformed ir).memRead c = s.memRead c := rfl

/-! takeAnswer: only the input side moves -/

@[simp] theorem State.takeAnswer_regs : s.takeAnswer.regs = s.regs := by
  unfold State.takeAnswer; split <;> rfl

@[simp] theorem State.takeAnswer_pc : s.takeAnswer.pc = s.pc := by
  unfold State.takeAnswer; split <;> rfl

@[simp] theorem State.takeAnswer_cond : s.takeAnswer.cond = s.cond := by
  unfold State.takeAnswer; split <;> rfl

@[simp] theorem State.takeAnswer_run : s.takeAnswer.run = s.run := by
  unfold State.takeAnswer; split <;> rfl

@[simp] theorem State.takeAnswer_mem : s.takeAnswer.mem = s.mem := by
  unfold State.takeAnswer; split <;> rfl

@[simp] theorem State.takeAnswer_output : s.takeAnswer.output = s.output := by
  unfold State.takeAnswer; split <;> rfl

@[simp] theorem State.takeAnswer_service : s.takeAnswer.service = s.service := by
  unfold State.takeAnswer; split <;> rfl

@[simp] theorem State.takeAnswer_diag : s.takeAnswer.diag = s.diag := by
  unfold State.takeAnswer; split <;> rfl

@[simp] theorem State.takeAnswer_inputPos : s.takeAnswer.inputPos = s.inputPos + consumedBytes s.hostAnswer := by
  unfold State.takeAnswer; split <;> rfl

@[simp] theorem State.takeAnswer_reg (q : Reg) : s.takeAnswer.reg q = s.reg q := by
  simp [State.reg]

@[simp] theorem State.takeAnswer_memRead (c : Word) : s.takeAnswer.memRead c = s.memRead c := by
  simp [State.memRead]

/-- Registers do not bear on what the host answers. -/
@[simp] theorem State.setReg_hostAnswer (r : Reg) (v : Word) : (s.setReg r v).hostAnswer = s.hostAnswer := rfl

@[simp] theorem State.setReg_takeAnswer (r : Reg) (v : Word) : (s.setReg r v).takeAnswer = s.takeAnswer.setReg r v := by
  unfold State.takeAnswer; split <;> simp_all <;> rfl

@[simp] theorem State.writeBytes_hostAnswer (bs : List Byte) : (s.writeBytes bs).hostAnswer = s.hostAnswer := rfl

/-! The operations that are two updates -/

@[simp] theorem State.setcc_eq (v : Word) : s.setcc v = s.setCond (condOf v) := rfl

@[simp] theorem State.writeResult_eq (r : Reg) (v : Word) : s.writeResult r v = (s.setReg r v).setCond (condOf v) := rfl

@[simp] theorem State.saveReturn_eq : s.saveReturn = s.setReg .r7 s.pc := rfl

@[simp] theorem State.returnThroughLink_eq : s.returnThroughLink = s.setPc (s.reg .r7) := rfl

@[simp] theorem State.advancePc_eq : s.advancePc = s.setPc (s.pc + 1#16) := rfl

/-! Registers: a read after a write (R10) -/

@[simp] theorem RegFile.get_set (f : RegFile) (r q : Reg) (v : Word) :
    (f.set r v).get q = if q = r then v else f.get q := by
  cases r <;> cases q <;> rfl

@[simp] theorem State.setReg_reg (r q : Reg) (v : Word) : (s.setReg r v).reg q = if q = r then v else s.reg q := by
  simp [State.reg]

theorem RegFile.ext_get {f g : RegFile} (h : ∀ r, f.get r = g.get r) : f = g := by
  cases f; cases g
  have h0 := h .r0; have h1 := h .r1; have h2 := h .r2; have h3 := h .r3
  have h4 := h .r4; have h5 := h .r5; have h6 := h .r6; have h7 := h .r7
  simp only [RegFile.get] at *
  simp [*]

/-- Two register writes to different registers may be swapped. -/
theorem State.setReg_comm {r q : Reg} (h : r ≠ q) (v w : Word) :
    (s.setReg r v).setReg q w = (s.setReg q w).setReg r v := by
  unfold State.setReg
  congr 1
  apply RegFile.ext_get
  intro x
  simp only [RegFile.get_set]
  split <;> split <;> simp_all

/-- The later of two writes to one register stands. -/
@[simp] theorem State.setReg_setReg_same (r : Reg) (v w : Word) : (s.setReg r v).setReg r w = s.setReg r w := by
  unfold State.setReg
  congr 1
  apply RegFile.ext_get
  intro x
  simp only [RegFile.get_set]
  split <;> simp_all

/-! Slots (R23) -/

/-- `get_register` after `set_register`, over all ten slots. -/
theorem State.getRegister_setRegister (p q : Slot) (v : Word) :
    (s.setRegister p v).getRegister q = if q = p then v else s.getRegister q := by
  cases p <;> cases q <;> simp [State.setRegister, State.getRegister]

/-! Reset -/

@[simp] theorem State.launch_empty : State.launch ⟨[]⟩ = State.reset := rfl

@[simp] theorem State.reset_reg (r : Reg) : State.reset.reg r = 0 := by cases r <;> rfl

@[simp] theorem State.assertReset_reg (r : Reg) : s.assertReset.reg r = 0 := by cases r <;> rfl

@[simp] theorem State.assertReset_memRead (a : Word) : s.assertReset.memRead a = s.memRead a := rfl

end Sys2Proof.Machine
end

