-- ==== Sys2Proof/Laws/Flags.lean ====
section
/-! SUPPORT. The flag update and the branch condition (R26 to R32). -/

namespace Sys2Proof.Machine

/-- The flag update gives one of the three flags, and says which. -/
theorem condOf_cases (v : Word) :
    (v.getLsbD 15 = true ∧ condOf v = condNegative) ∨
    (v.getLsbD 15 = false ∧ v = 0 ∧ condOf v = condZero) ∨
    (v.getLsbD 15 = false ∧ v ≠ 0 ∧ condOf v = condPositive) := by
  unfold condOf
  split
  · simp_all
  · split <;> simp_all

/-- Every flag update gives a legal COND (R27). -/
theorem condOf_legal (v : Word) : condLegal (condOf v) := by
  rcases condOf_cases v with ⟨-, h⟩ | ⟨-, -, h⟩ | ⟨-, -, h⟩ <;> simp [condLegal, h]

/-- A zero-extended byte is never NEGATIVE (R202). -/
theorem condOf_zext16 (b : Byte) : condOf (zext16 b) = if b = 0 then condZero else condPositive := by
  have h15 : (zext16 b).getLsbD 15 = false := by simp [zext16]
  have h0 : zext16 b = 0 ↔ b = 0 := by
    constructor
    · intro h
      have := congrArg (BitVec.setWidth 8) h
      simpa [zext16] using this
    · rintro rfl; rfl
  unfold condOf
  rw [h15]
  by_cases hb : b = 0
  · simp [hb, zext16]
  · have hz : zext16 b ≠ 0 := fun h => hb (h0.mp h)
    simp_all

/-- The branch condition reads the mask bit of the flag COND holds: n for NEGATIVE, z for ZERO, p for POSITIVE (R32). -/
theorem brTaken_negative (nzp : BitVec 3) : brTaken nzp condNegative = nzp.getLsbD 2 := by
  revert nzp; decide

theorem brTaken_zero (nzp : BitVec 3) : brTaken nzp condZero = nzp.getLsbD 1 := by
  revert nzp; decide

theorem brTaken_positive (nzp : BitVec 3) : brTaken nzp condPositive = nzp.getLsbD 0 := by
  revert nzp; decide

end Sys2Proof.Machine
end

