-- ==== Sys2Proof/Laws/Memory.lean ====
section
/-! SUPPORT. Memory: a read after a write, and the canonical form that every operation keeps (log 1). -/

namespace Sys2Proof.Machine

theorem lookupCell_insertCell (cells : List (Nat × Word)) (a b : Nat) (v : Word) :
    lookupCell (insertCell cells a v) b = if b = a then v else lookupCell cells b := by
  induction cells with
  | nil => simp [insertCell, lookupCell, eq_comm]
  | cons c rest ih =>
    obtain ⟨k, w⟩ := c
    simp only [insertCell]
    split
    · simp [lookupCell, eq_comm]
    · split
      · rename_i hak
        subst hak
        simp only [lookupCell, eq_comm (a := b)]
        split <;> rfl
      · simp only [lookupCell, ih]
        split <;> split <;> simp_all

theorem lookupCell_eraseCell (cells : List (Nat × Word)) (a b : Nat) :
    lookupCell (eraseCell cells a) b = if b = a then Memory.unlisted else lookupCell cells b := by
  induction cells with
  | nil => simp [eraseCell, lookupCell]
  | cons c rest ih =>
    obtain ⟨k, w⟩ := c
    simp only [eraseCell] at ih ⊢
    rw [List.filter_cons]
    by_cases hb : b = a <;> by_cases hk : k = b <;> by_cases hka : k = a <;> simp_all [lookupCell]

/-- A read after a write (R57, R60): the cell written, and every other cell as it was. -/
theorem Memory.read_write (m : Memory) (a b v : Word) :
    (m.write a v).read b = if b = a then v else m.read b := by
  unfold Memory.read Memory.write
  have hab : b.toNat = a.toNat ↔ b = a := BitVec.toNat_inj
  split
  · simp only [lookupCell_eraseCell, hab]
    split <;> simp_all
  · simp only [lookupCell_insertCell, hab]

@[simp] theorem State.memWrite_memRead (s : State) (a b v : Word) :
    (s.memWrite a v).memRead b = if b = a then v else s.memRead b := by
  simp [State.memRead, Memory.read_write]

theorem mem_insertCell {cells : List (Nat × Word)} {a : Nat} {v : Word} {c : Nat × Word}
    (h : c ∈ insertCell cells a v) : c = (a, v) ∨ c ∈ cells := by
  induction cells with
  | nil => simpa [insertCell] using h
  | cons d rest ih =>
    obtain ⟨k, w⟩ := d
    simp only [insertCell] at h
    split at h
    · simpa using h
    · split at h
      · rcases List.mem_cons.mp h with h | h <;> simp [h]
      · rcases List.mem_cons.mp h with h | h
        · simp [h]
        · rcases ih h with h | h <;> simp [h]

theorem insertCell_pairwise {cells : List (Nat × Word)} (a : Nat) (v : Word)
    (h : cells.Pairwise (fun c d => c.1 < d.1)) : (insertCell cells a v).Pairwise (fun c d => c.1 < d.1) := by
  induction cells with
  | nil => simp [insertCell]
  | cons d rest ih =>
    obtain ⟨k, w⟩ := d
    have hk := List.pairwise_cons.mp h
    simp only [insertCell]
    split
    · rename_i hlt
      refine List.pairwise_cons.mpr ⟨fun c hc => ?_, h⟩
      rcases List.mem_cons.mp hc with rfl | hc
      · exact hlt
      · exact Nat.lt_trans hlt (hk.1 c hc)
    · split
      · subst_vars
        exact List.pairwise_cons.mpr ⟨hk.1, hk.2⟩
      · refine List.pairwise_cons.mpr ⟨fun c hc => ?_, ih hk.2⟩
        rcases mem_insertCell hc with rfl | hc
        · simp only; omega
        · exact hk.1 c hc

/-- Every write keeps the canonical form. -/
theorem Memory.write_wf {m : Memory} (h : m.wf) (a v : Word) : (m.write a v).wf := by
  unfold Memory.write
  split
  · exact ⟨h.1.filter _, fun c hc => h.2 c (List.mem_of_mem_filter hc)⟩
  · rename_i hv
    refine ⟨insertCell_pairwise _ _ h.1, fun c hc => ?_⟩
    rcases mem_insertCell hc with rfl | hc
    · exact ⟨a.isLt, hv⟩
    · exact h.2 c hc

/-- The memory of the state after reset has the canonical form. -/
theorem reset_mem_wf : State.reset.mem.wf := by decide

/-- Placing an instruction word keeps the canonical form. -/
theorem withFetchWord_wf {s : State} (h : s.mem.wf) (nbits w : Nat) : (s.withFetchWord nbits w).mem.wf :=
  Memory.write_wf h _ _

/-- The reset memory reads 0x0000 at every address (log 2). -/
theorem reset_memRead (a : Word) : State.reset.memRead a = Memory.unlisted := rfl

end Sys2Proof.Machine
end

