-- ==== Sys2Proof/Laws/Operands.lean ====
section
/-! SUPPORT. Sign extension (R7) and the bytes of a cell (R8, R54). -/

namespace Sys2Proof.Machine

/-- `sext_N` bit by bit: the field's own bits, then copies of its bit N-1. -/
theorem sext_getLsbD {n : Nat} (x : BitVec n) (i : Nat) (hi : i < 16) :
    (sext x).getLsbD i = if i < n then x.getLsbD i else x.getLsbD (n - 1) := by
  have ones : (0xFFFF#16).getLsbD (i - n) = true := by
    have : 0xFFFF#16 = BitVec.allOnes 16 := rfl
    rw [this, BitVec.getLsbD_allOnes]; simp; omega
  unfold sext
  split
  · rename_i h
    by_cases hn : i < n <;> simp [hi, hn, h, ones]
  · rename_i h
    by_cases hn : i < n
    · simp [hi, hn]
    · simp only [BitVec.getLsbD_setWidth, hi, hn, if_false, decide_true, Bool.true_and]
      rw [BitVec.getLsbD_of_ge x i (by omega)]
      simpa using h

/-- `sext_N` is two's-complement sign extension. -/
theorem sext_eq_signExtend {n : Nat} (x : BitVec n) : sext x = x.signExtend 16 := by
  apply BitVec.eq_of_getLsbD_eq
  intro i hi
  rw [sext_getLsbD x i hi, BitVec.getLsbD_signExtend]
  simp [hi, BitVec.msb_eq_getLsbD_last]

/-- The two bytes make the cell (R54). -/
theorem highByte_append_lowByte (v : Word) : (highByte v ++ lowByte v : BitVec 16) = v := by
  apply BitVec.eq_of_getLsbD_eq
  intro i hi
  simp only [highByte, lowByte, BitVec.getLsbD_append, BitVec.getLsbD_extractLsb']
  split
  · simp_all
  · have : 8 + (i - 8) = i := by omega
    simp only [this]
    have h8 : i - 8 < 8 := by omega
    simp [h8]

@[simp] theorem lowByte_zext16 (b : Byte) : lowByte (zext16 b) = b := by
  apply BitVec.eq_of_getLsbD_eq
  intro i hi
  have : i < 16 := by omega
  simp [lowByte, zext16, hi, this]

end Sys2Proof.Machine
end

