-- ==== Sys2Proof/Laws/PerInstr.lean ====
section
/-! SUPPORT. Facts about every instruction as syntax, one lemma per constructor. -/

/-! The word of an instruction carries its opcode (R72). -/

def Sys2Proof.Laws.EncodedOpcode.Statement (i : Sys2Proof.Instr) : Prop :=
  Sys2Proof.opcodeOf (Sys2Proof.encode i) = i.opcode

/-! The table has a row of the instruction's name, and the row an alias is a special case of (INDEX.md). -/

def Sys2Proof.Laws.EncodedRow.Statement (i : Sys2Proof.Instr) : Prop :=
  ∃ row ∈ Sys2Proof.opcodeTable, row.name = i.rowName ∧ row.base.getD i.rowName = i.rowName.baseRow

namespace Sys2Proof.Laws.EncodedOpcode

theorem addReg (dr sr1 sr2 : Reg) : Statement (.addReg dr sr1 sr2) := by
  simp [Sys2Proof.Laws.EncodedOpcode.Statement, Sys2Proof.encode, Sys2Proof.Instr.opcode]

theorem addImm (dr sr1 : Reg) (imm5 : BitVec 5) : Statement (.addImm dr sr1 imm5) := by
  simp [Sys2Proof.Laws.EncodedOpcode.Statement, Sys2Proof.encode, Sys2Proof.Instr.opcode]

theorem andReg (dr sr1 sr2 : Reg) : Statement (.andReg dr sr1 sr2) := by
  simp [Sys2Proof.Laws.EncodedOpcode.Statement, Sys2Proof.encode, Sys2Proof.Instr.opcode]

theorem andImm (dr sr1 : Reg) (imm5 : BitVec 5) : Statement (.andImm dr sr1 imm5) := by
  simp [Sys2Proof.Laws.EncodedOpcode.Statement, Sys2Proof.encode, Sys2Proof.Instr.opcode]

theorem notReg (dr sr : Reg) : Statement (.notReg dr sr) := by
  simp [Sys2Proof.Laws.EncodedOpcode.Statement, Sys2Proof.encode, Sys2Proof.Instr.opcode]

theorem br (nzp : BitVec 3) (off9 : BitVec 9) : Statement (.br nzp off9) := by
  simp [Sys2Proof.Laws.EncodedOpcode.Statement, Sys2Proof.encode, Sys2Proof.Instr.opcode]

theorem jmp (baseR : Reg) : Statement (.jmp baseR) := by
  simp [Sys2Proof.Laws.EncodedOpcode.Statement, Sys2Proof.encode, Sys2Proof.Instr.opcode]

theorem ret : Statement .ret := by
  simp [Sys2Proof.Laws.EncodedOpcode.Statement, Sys2Proof.encode, Sys2Proof.Instr.opcode]

theorem jsr (off11 : BitVec 11) : Statement (.jsr off11) := by
  simp [Sys2Proof.Laws.EncodedOpcode.Statement, Sys2Proof.encode, Sys2Proof.Instr.opcode]

theorem jsrr (baseR : Reg) : Statement (.jsrr baseR) := by
  simp [Sys2Proof.Laws.EncodedOpcode.Statement, Sys2Proof.encode, Sys2Proof.Instr.opcode]

theorem ld (dr : Reg) (off9 : BitVec 9) : Statement (.ld dr off9) := by
  simp [Sys2Proof.Laws.EncodedOpcode.Statement, Sys2Proof.encode, Sys2Proof.Instr.opcode]

theorem ldi (dr : Reg) (off9 : BitVec 9) : Statement (.ldi dr off9) := by
  simp [Sys2Proof.Laws.EncodedOpcode.Statement, Sys2Proof.encode, Sys2Proof.Instr.opcode]

theorem ldr (dr baseR : Reg) (off6 : BitVec 6) : Statement (.ldr dr baseR off6) := by
  simp [Sys2Proof.Laws.EncodedOpcode.Statement, Sys2Proof.encode, Sys2Proof.Instr.opcode]

theorem lea (dr : Reg) (off9 : BitVec 9) : Statement (.lea dr off9) := by
  simp [Sys2Proof.Laws.EncodedOpcode.Statement, Sys2Proof.encode, Sys2Proof.Instr.opcode]

theorem st (sr : Reg) (off9 : BitVec 9) : Statement (.st sr off9) := by
  simp [Sys2Proof.Laws.EncodedOpcode.Statement, Sys2Proof.encode, Sys2Proof.Instr.opcode]

theorem sti (sr : Reg) (off9 : BitVec 9) : Statement (.sti sr off9) := by
  simp [Sys2Proof.Laws.EncodedOpcode.Statement, Sys2Proof.encode, Sys2Proof.Instr.opcode]

theorem str (sr baseR : Reg) (off6 : BitVec 6) : Statement (.str sr baseR off6) := by
  simp [Sys2Proof.Laws.EncodedOpcode.Statement, Sys2Proof.encode, Sys2Proof.Instr.opcode]

theorem rti (low : BitVec 12) : Statement (.rti low) := by
  simp [Sys2Proof.Laws.EncodedOpcode.Statement, Sys2Proof.encode, Sys2Proof.Instr.opcode]

theorem res (low : BitVec 12) : Statement (.res low) := by
  simp [Sys2Proof.Laws.EncodedOpcode.Statement, Sys2Proof.encode, Sys2Proof.Instr.opcode]

theorem trap (vect8 : BitVec 8) : Statement (.trap vect8) := by
  simp [Sys2Proof.Laws.EncodedOpcode.Statement, Sys2Proof.encode, Sys2Proof.Instr.opcode]

theorem getc : Statement .getc := by
  simp [Sys2Proof.Laws.EncodedOpcode.Statement, Sys2Proof.encode, Sys2Proof.Instr.opcode]

theorem out : Statement .out := by
  simp [Sys2Proof.Laws.EncodedOpcode.Statement, Sys2Proof.encode, Sys2Proof.Instr.opcode]

theorem puts : Statement .puts := by
  simp [Sys2Proof.Laws.EncodedOpcode.Statement, Sys2Proof.encode, Sys2Proof.Instr.opcode]

theorem inChar : Statement .inChar := by
  simp [Sys2Proof.Laws.EncodedOpcode.Statement, Sys2Proof.encode, Sys2Proof.Instr.opcode]

theorem putsp : Statement .putsp := by
  simp [Sys2Proof.Laws.EncodedOpcode.Statement, Sys2Proof.encode, Sys2Proof.Instr.opcode]

theorem halt : Statement .halt := by
  simp [Sys2Proof.Laws.EncodedOpcode.Statement, Sys2Proof.encode, Sys2Proof.Instr.opcode]

end Sys2Proof.Laws.EncodedOpcode

namespace Sys2Proof.Laws.EncodedRow

theorem addReg (dr sr1 sr2 : Reg) : Statement (.addReg dr sr1 sr2) := by
  simp [Sys2Proof.Laws.EncodedRow.Statement, Sys2Proof.opcodeTable, Sys2Proof.Instr.rowName, Sys2Proof.RowName.baseRow]

theorem addImm (dr sr1 : Reg) (imm5 : BitVec 5) : Statement (.addImm dr sr1 imm5) := by
  simp [Sys2Proof.Laws.EncodedRow.Statement, Sys2Proof.opcodeTable, Sys2Proof.Instr.rowName, Sys2Proof.RowName.baseRow]

theorem andReg (dr sr1 sr2 : Reg) : Statement (.andReg dr sr1 sr2) := by
  simp [Sys2Proof.Laws.EncodedRow.Statement, Sys2Proof.opcodeTable, Sys2Proof.Instr.rowName, Sys2Proof.RowName.baseRow]

theorem andImm (dr sr1 : Reg) (imm5 : BitVec 5) : Statement (.andImm dr sr1 imm5) := by
  simp [Sys2Proof.Laws.EncodedRow.Statement, Sys2Proof.opcodeTable, Sys2Proof.Instr.rowName, Sys2Proof.RowName.baseRow]

theorem notReg (dr sr : Reg) : Statement (.notReg dr sr) := by
  simp [Sys2Proof.Laws.EncodedRow.Statement, Sys2Proof.opcodeTable, Sys2Proof.Instr.rowName, Sys2Proof.RowName.baseRow]

theorem br (nzp : BitVec 3) (off9 : BitVec 9) : Statement (.br nzp off9) := by
  simp [Sys2Proof.Laws.EncodedRow.Statement, Sys2Proof.opcodeTable, Sys2Proof.Instr.rowName, Sys2Proof.RowName.baseRow]

theorem jmp (baseR : Reg) : Statement (.jmp baseR) := by
  simp [Sys2Proof.Laws.EncodedRow.Statement, Sys2Proof.opcodeTable, Sys2Proof.Instr.rowName, Sys2Proof.RowName.baseRow]

theorem ret : Statement .ret := by
  simp [Sys2Proof.Laws.EncodedRow.Statement, Sys2Proof.opcodeTable, Sys2Proof.Instr.rowName, Sys2Proof.RowName.baseRow]

theorem jsr (off11 : BitVec 11) : Statement (.jsr off11) := by
  simp [Sys2Proof.Laws.EncodedRow.Statement, Sys2Proof.opcodeTable, Sys2Proof.Instr.rowName, Sys2Proof.RowName.baseRow]

theorem jsrr (baseR : Reg) : Statement (.jsrr baseR) := by
  simp [Sys2Proof.Laws.EncodedRow.Statement, Sys2Proof.opcodeTable, Sys2Proof.Instr.rowName, Sys2Proof.RowName.baseRow]

theorem ld (dr : Reg) (off9 : BitVec 9) : Statement (.ld dr off9) := by
  simp [Sys2Proof.Laws.EncodedRow.Statement, Sys2Proof.opcodeTable, Sys2Proof.Instr.rowName, Sys2Proof.RowName.baseRow]

theorem ldi (dr : Reg) (off9 : BitVec 9) : Statement (.ldi dr off9) := by
  simp [Sys2Proof.Laws.EncodedRow.Statement, Sys2Proof.opcodeTable, Sys2Proof.Instr.rowName, Sys2Proof.RowName.baseRow]

theorem ldr (dr baseR : Reg) (off6 : BitVec 6) : Statement (.ldr dr baseR off6) := by
  simp [Sys2Proof.Laws.EncodedRow.Statement, Sys2Proof.opcodeTable, Sys2Proof.Instr.rowName, Sys2Proof.RowName.baseRow]

theorem lea (dr : Reg) (off9 : BitVec 9) : Statement (.lea dr off9) := by
  simp [Sys2Proof.Laws.EncodedRow.Statement, Sys2Proof.opcodeTable, Sys2Proof.Instr.rowName, Sys2Proof.RowName.baseRow]

theorem st (sr : Reg) (off9 : BitVec 9) : Statement (.st sr off9) := by
  simp [Sys2Proof.Laws.EncodedRow.Statement, Sys2Proof.opcodeTable, Sys2Proof.Instr.rowName, Sys2Proof.RowName.baseRow]

theorem sti (sr : Reg) (off9 : BitVec 9) : Statement (.sti sr off9) := by
  simp [Sys2Proof.Laws.EncodedRow.Statement, Sys2Proof.opcodeTable, Sys2Proof.Instr.rowName, Sys2Proof.RowName.baseRow]

theorem str (sr baseR : Reg) (off6 : BitVec 6) : Statement (.str sr baseR off6) := by
  simp [Sys2Proof.Laws.EncodedRow.Statement, Sys2Proof.opcodeTable, Sys2Proof.Instr.rowName, Sys2Proof.RowName.baseRow]

theorem rti (low : BitVec 12) : Statement (.rti low) := by
  simp [Sys2Proof.Laws.EncodedRow.Statement, Sys2Proof.opcodeTable, Sys2Proof.Instr.rowName, Sys2Proof.RowName.baseRow]

theorem res (low : BitVec 12) : Statement (.res low) := by
  simp [Sys2Proof.Laws.EncodedRow.Statement, Sys2Proof.opcodeTable, Sys2Proof.Instr.rowName, Sys2Proof.RowName.baseRow]

theorem trap (vect8 : BitVec 8) : Statement (.trap vect8) := by
  simp [Sys2Proof.Laws.EncodedRow.Statement, Sys2Proof.opcodeTable, Sys2Proof.Instr.rowName, Sys2Proof.RowName.baseRow]

theorem getc : Statement .getc := by
  simp [Sys2Proof.Laws.EncodedRow.Statement, Sys2Proof.opcodeTable, Sys2Proof.Instr.rowName, Sys2Proof.RowName.baseRow]

theorem out : Statement .out := by
  simp [Sys2Proof.Laws.EncodedRow.Statement, Sys2Proof.opcodeTable, Sys2Proof.Instr.rowName, Sys2Proof.RowName.baseRow]

theorem puts : Statement .puts := by
  simp [Sys2Proof.Laws.EncodedRow.Statement, Sys2Proof.opcodeTable, Sys2Proof.Instr.rowName, Sys2Proof.RowName.baseRow]

theorem inChar : Statement .inChar := by
  simp [Sys2Proof.Laws.EncodedRow.Statement, Sys2Proof.opcodeTable, Sys2Proof.Instr.rowName, Sys2Proof.RowName.baseRow]

theorem putsp : Statement .putsp := by
  simp [Sys2Proof.Laws.EncodedRow.Statement, Sys2Proof.opcodeTable, Sys2Proof.Instr.rowName, Sys2Proof.RowName.baseRow]

theorem halt : Statement .halt := by
  simp [Sys2Proof.Laws.EncodedRow.Statement, Sys2Proof.opcodeTable, Sys2Proof.Instr.rowName, Sys2Proof.RowName.baseRow]

end Sys2Proof.Laws.EncodedRow
end

