-- ==== Sys2Proof/Laws/Traps.lean ====
section
/-! SUPPORT. What the shared operations of the trap services can do, said once each. -/

namespace Sys2Proof.Machine

/-- GETC's read: a byte, a failure, or no answer yet. -/
theorem getcRead_cases (s : State) :
    (∃ b, s.hostAnswer = some (.byte b) ∧
      getcRead s = ((s.takeAnswer.setService none).setReg .r0 (zext16 b)).setCond (condOf (zext16 b))) ∨
    (s.hostAnswer = some .failure ∧ getcRead s = (s.takeAnswer.setService none).raiseIOFailure) ∨
    (s.hostAnswer = none ∧ getcRead s = s.takeAnswer.setService (some .getc)) := by
  unfold getcRead
  split <;> simp_all

/-- IN's read: a byte, echoed; a failure; or no answer yet. -/
theorem inRead_cases (s : State) :
    (∃ b, s.hostAnswer = some (.byte b) ∧
      inRead s = ((((s.takeAnswer.setService none).writeByte b).flush).setReg .r0 (zext16 b)).setCond
        (condOf (zext16 b))) ∨
    (s.hostAnswer = some .failure ∧ inRead s = (s.takeAnswer.setService none).raiseIOFailure) ∨
    (s.hostAnswer = none ∧ inRead s = s.takeAnswer.setService (some .inChar)) := by
  unfold inRead
  split <;> simp_all

/-- A string service: the string ends within a lap of memory, or the service goes on. -/
theorem scanFrom_cases (kind : StringKind) (a : Word) (s : State) :
    ((kind.scan s.mem Config.memCells a).ended = true ∧
      scanFrom kind a s = ((s.writeBytes (kind.scan s.mem Config.memCells a).bytes).setService none).flush) ∨
    ((kind.scan s.mem Config.memCells a).ended = false ∧
      scanFrom kind a s =
        (s.writeBytes (kind.scan s.mem Config.memCells a).bytes).setService (some (.scan kind a))) := by
  unfold scanFrom
  by_cases h : (kind.scan s.mem Config.memCells a).ended <;> simp [h]

/-- The sub-dispatch: one of the six services, or nothing. -/
theorem trapService_cases (v : BitVec 8) (s : State) :
    trapService v s = getcService s ∨ trapService v s = outService s ∨ trapService v s = putsService s ∨
    trapService v s = inService s ∨ trapService v s = putspService s ∨ trapService v s = haltService s ∨
    trapService v s = s := by
  unfold trapService
  repeat' split
  all_goals simp

/-- A vector that selects no service does nothing (R210). -/
theorem trapService_other {v : BitVec 8} (h : isServiceVector v = false) (s : State) : trapService v s = s := by
  have : v ≠ 0x20#8 ∧ v ≠ 0x21#8 ∧ v ≠ 0x22#8 ∧ v ≠ 0x23#8 ∧ v ≠ 0x24#8 ∧ v ≠ 0x25#8 := by
    refine ⟨?_, ?_, ?_, ?_, ?_, ?_⟩ <;> (rintro rfl; exact absurd h (by decide))
  simp [trapService, this]

/-- The k-th cell after the next one is the (k+1)-th from here. -/
theorem add_one_add (a : Word) (k : Nat) : a + 1#16 + BitVec.ofNat 16 k = a + BitVec.ofNat 16 (k + 1) := by
  apply BitVec.eq_of_toNat_eq
  simp only [BitVec.toNat_add, BitVec.toNat_ofNat]
  omega

/-- The cells a PUTS scan goes through, when the n-th is the first zero cell. -/
theorem scanPuts_terminated (m : Memory) (n : Nat) : ∀ (fuel : Nat) (a : Word), n < fuel →
    (∀ k, k < n → m.read (a + BitVec.ofNat 16 k) ≠ 0#16) → m.read (a + BitVec.ofNat 16 n) = 0#16 →
    scanPuts m fuel a = ⟨(List.range n).map fun k => lowByte (m.read (a + BitVec.ofNat 16 k)), true⟩ := by
  induction n with
  | zero =>
    intro fuel a hf _ h0
    obtain ⟨f, rfl⟩ : ∃ f, fuel = f + 1 := ⟨fuel - 1, by omega⟩
    have h0' : m.read a = 0x0000#16 := by simpa using h0
    simp [scanPuts, h0']
  | succ n ih =>
    intro fuel a hf hn h0
    obtain ⟨f, rfl⟩ : ∃ f, fuel = f + 1 := ⟨fuel - 1, by omega⟩
    have ha : m.read a ≠ 0x0000#16 := by simpa using hn 0 (by omega)
    have step := ih f (a + 1#16) (by omega) (fun k hk => by rw [add_one_add]; exact hn (k + 1) (by omega)) (by rw [add_one_add]; exact h0)
    simp only [scanPuts, ha, if_false, step, List.range_succ_eq_map, List.map_cons, List.map_map]
    simp [add_one_add]

/-- The cells a PUTSP scan goes through, when the n-th is the first with a zero byte: two bytes of each cell before it,
low byte first, and the low byte of that cell if it is not zero (R207, R208). -/
theorem scanPutsp_terminated (m : Memory) (n : Nat) : ∀ (fuel : Nat) (a : Word), n < fuel →
    (∀ k, k < n → lowByte (m.read (a + BitVec.ofNat 16 k)) ≠ 0#8 ∧ highByte (m.read (a + BitVec.ofNat 16 k)) ≠ 0#8) →
    (lowByte (m.read (a + BitVec.ofNat 16 n)) = 0#8 ∨ highByte (m.read (a + BitVec.ofNat 16 n)) = 0#8) →
    scanPutsp m fuel a =
      ⟨(List.range n).flatMap (fun k => [lowByte (m.read (a + BitVec.ofNat 16 k)), highByte (m.read (a + BitVec.ofNat 16 k))])
        ++ (if lowByte (m.read (a + BitVec.ofNat 16 n)) = 0#8 then [] else [lowByte (m.read (a + BitVec.ofNat 16 n))]),
        true⟩ := by
  induction n with
  | zero =>
    intro fuel a hf _ h0
    obtain ⟨f, rfl⟩ : ∃ f, fuel = f + 1 := ⟨fuel - 1, by omega⟩
    simp only [scanPutsp, BitVec.add_zero, List.range_zero, List.flatMap_nil, List.nil_append] at *
    split
    · rfl
    · rename_i hl
      simp_all
  | succ n ih =>
    intro fuel a hf hn h0
    obtain ⟨f, rfl⟩ : ∃ f, fuel = f + 1 := ⟨fuel - 1, by omega⟩
    have ha : lowByte (m.read a) ≠ 0#8 ∧ highByte (m.read a) ≠ 0#8 := by simpa using hn 0 (by omega)
    have step := ih f (a + 1#16) (by omega) (fun k hk => by rw [add_one_add]; exact hn (k + 1) (by omega))
      (by rw [add_one_add]; exact h0)
    simp only [scanPutsp, ha.1, ha.2, if_false, step, List.range_succ_eq_map, List.flatMap_cons, List.flatMap_map]
    simp [add_one_add]

/-- A PUTS scan over cells none of which is zero writes one byte a cell and does not end. -/
theorem scanPuts_endless (m : Memory) (h : ∀ a, m.read a ≠ 0#16) (fuel : Nat) (a : Word) :
    (scanPuts m fuel a).ended = false ∧ (scanPuts m fuel a).bytes.length = fuel := by
  induction fuel generalizing a with
  | zero => simp [scanPuts]
  | succ f ih =>
    have := ih (a + 1#16)
    have ha : m.read a ≠ 0x0000#16 := h a
    simp [scanPuts, ha, this]

/-- A PUTSP scan over cells none of which has a zero byte writes two bytes a cell and does not end. -/
theorem scanPutsp_endless (m : Memory) (h : ∀ a, lowByte (m.read a) ≠ 0#8 ∧ highByte (m.read a) ≠ 0#8) (fuel : Nat) (a : Word) :
    (scanPutsp m fuel a).ended = false ∧ (scanPutsp m fuel a).bytes.length = 2 * fuel := by
  induction fuel generalizing a with
  | zero => simp [scanPutsp]
  | succ f ih =>
    have := ih (a + 1#16)
    have hl : lowByte (m.read a) ≠ 0x00#8 := (h a).1
    have hh : highByte (m.read a) ≠ 0x00#8 := (h a).2
    simp [scanPutsp, hl, hh, this]
    omega

end Sys2Proof.Machine
end

