-- ==== Sys2Proof/Laws/Step.lean ====
section
/-! SUPPORT. What a step can do, said once, and what the operations a service under way goes on with leave alone. -/

namespace Sys2Proof.Machine

/-- A step's next state: the same state outside RUNNING; a service that goes on; or the fetched instruction's. -/
theorem step_cases {s t : State} (h : step s = .next t) :
    (s.run ≠ .running ∧ t = s) ∨
    (s.run = .running ∧ ∃ sv, s.service = some sv ∧ t = resumeService sv s) ∨
    (s.run = .running ∧ s.service = none ∧ exec (decode s.fetchWord) s.advancePc = .next t) := by
  unfold step at h
  split at h
  · split at h
    · cases h; exact .inr (.inl ⟨‹_›, _, ‹_›, rfl⟩)
    · exact .inr (.inr ⟨‹_›, ‹_›, h⟩)
  · cases h; simp [*]
  · cases h; simp [*]

/-- Outside RUNNING a step changes nothing (R101). -/
theorem step_ended {s : State} (h : s.run ≠ .running) : step s = .next s := by
  unfold step
  split <;> simp_all

/-- A RUNNING machine with a service under way goes on with it (log 13). -/
theorem step_service {s : State} {sv : Service} (hr : s.run = .running) (hs : s.service = some sv) :
    step s = .next (resumeService sv s) := by
  simp [step, hr, hs]

/-- A RUNNING machine with none fetches (R102). -/
theorem step_fetch {s : State} (hr : s.run = .running) (hs : s.service = none) :
    step s = exec (decode s.fetchWord) s.advancePc := by
  simp [step, hr, hs]

/-- Taking an answer uses up the listed one, if any. -/
theorem takeAnswer_input (s : State) : s.takeAnswer.input = s.input.tail := by
  unfold State.takeAnswer
  split <;> simp_all

/-- GETC's read leaves memory, PC, R1 to R7, the output and the diagnostics alone. -/
theorem getcRead_frame (s : State) :
    (getcRead s).mem = s.mem ∧ (getcRead s).pc = s.pc ∧ (∀ r, r ≠ .r0 → (getcRead s).reg r = s.reg r) ∧
    (getcRead s).output = s.output ∧ (getcRead s).diag = s.diag ∧ (getcRead s).input = s.input.tail ∧
    (getcRead s).inputPos = s.inputPos + consumedBytes s.hostAnswer := by
  rcases getcRead_cases s with ⟨b, -, e⟩ | ⟨-, e⟩ | ⟨-, e⟩ <;> rw [e] <;>
    exact ⟨by simp, by simp, fun r hr => by simp [hr], by simp, by simp, by simp [takeAnswer_input], by simp⟩

/-- IN's read leaves memory, PC, R1 to R7 and the diagnostics alone; a byte is echoed, and nothing else is written out. -/
theorem inRead_frame (s : State) :
    (inRead s).mem = s.mem ∧ (inRead s).pc = s.pc ∧ (∀ r, r ≠ .r0 → (inRead s).reg r = s.reg r) ∧
    (inRead s).output = s.output ++ (match s.hostAnswer with
      | some (.byte b) => [.byte b, .flush]
      | some .failure | none => []) ∧
    (inRead s).diag = s.diag ∧ (inRead s).input = s.input.tail ∧
    (inRead s).inputPos = s.inputPos + consumedBytes s.hostAnswer := by
  rcases inRead_cases s with ⟨b, h, e⟩ | ⟨h, e⟩ | ⟨h, e⟩ <;> rw [e] <;>
    exact ⟨by simp, by simp, fun r hr => by simp [hr], by simp [h], by simp, by simp [takeAnswer_input], by simp⟩

/-- What GETC's read writes: R0 and COND with a byte, the run state with a failure, none of them while it waits. -/
theorem getcRead_result (s : State) : match s.hostAnswer with
    | some (.byte b) => (getcRead s).reg .r0 = zext16 b ∧ (getcRead s).cond = condOf (zext16 b) ∧
        (getcRead s).run = s.run ∧ (getcRead s).service = none
    | some .failure => (getcRead s).reg .r0 = s.reg .r0 ∧ (getcRead s).cond = s.cond ∧
        (getcRead s).run = .ioFault ∧ (getcRead s).service = none
    | none => (getcRead s).reg .r0 = s.reg .r0 ∧ (getcRead s).cond = s.cond ∧
        (getcRead s).run = s.run ∧ (getcRead s).service = some .getc := by
  rcases getcRead_cases s with ⟨b, h, e⟩ | ⟨h, e⟩ | ⟨h, e⟩ <;> simp [h, e]

/-- What IN's read writes, likewise. -/
theorem inRead_result (s : State) : match s.hostAnswer with
    | some (.byte b) => (inRead s).reg .r0 = zext16 b ∧ (inRead s).cond = condOf (zext16 b) ∧
        (inRead s).run = s.run ∧ (inRead s).service = none
    | some .failure => (inRead s).reg .r0 = s.reg .r0 ∧ (inRead s).cond = s.cond ∧
        (inRead s).run = .ioFault ∧ (inRead s).service = none
    | none => (inRead s).reg .r0 = s.reg .r0 ∧ (inRead s).cond = s.cond ∧
        (inRead s).run = s.run ∧ (inRead s).service = some .inChar := by
  rcases inRead_cases s with ⟨b, h, e⟩ | ⟨h, e⟩ | ⟨h, e⟩ <;> simp [h, e]

/-- A string service changes nothing but the output, which grows, and the service under way. -/
theorem scanFrom_frame (kind : StringKind) (a : Word) (s : State) : ∃ events sv,
    scanFrom kind a s = { s with output := s.output ++ events, service := sv } := by
  rcases scanFrom_cases kind a s with ⟨-, e⟩ | ⟨-, e⟩ <;> rw [e]
  · exact ⟨_, none, by simp only [State.writeBytes, State.flush, State.setService, List.append_assoc]; rfl⟩
  · exact ⟨_, some (.scan kind a), rfl⟩

end Sys2Proof.Machine
end

