-- ==== Sys2Proof/Tests/Slice0.lean ====
section
/-! SUPPORT. Tests: the WellFormed smoke, decoding of words written out from the spec, one step of each instruction against the
vectors of 95_test_vectors.md (V-..., W...), and a witness for the hypotheses of each statement that has any. -/

namespace Sys2Proof.Tests

open Sys2Proof Sys2Proof.Machine

/-! ## Small states -/

/-- Reset, with some cells listed. -/
def withCells (cells : List (Nat × Word)) : State := State.launch ⟨cells⟩

/-- The word placed where the next step fetches. -/
def place (s : State) (w : Word) : State := s.withFetchWord 16 w.toNat

/-- The next state, if there is one. -/
def nextOf : Host.Outcome State Fault Refusal → Option State
  | .next t => some t
  | .fault _ => none
  | .refused _ => none

/-- One step from reset with some registers set and one word at 0x3000. -/
def after (regs : List (Reg × Word)) (cells : List (Nat × Word)) (w : Word) : Option State :=
  nextOf (step (place (regs.foldl (fun s p => s.setReg p.1 p.2) (withCells cells)) w))

/-- Reset with POSITIVE in COND. -/
def positive : State := State.reset.setCond condPositive

/-- PC after one step of `positive` with COND replaced. -/
def pcAfter (c w : Word) : Option Word :=
  (nextOf (step (place (State.reset.setCond c) w))).map (·.pc)

/-- Reset with what the host says listed. -/
def heard (l : List (Option HostAnswer)) : State := { State.reset with input := l }

/-- One step of TRAP from `heard`. -/
def afterTrap (l : List (Option HostAnswer)) (w : Word) : Option State :=
  nextOf (step (place (heard l) w))

/-! ## WellFormed: each check refuses its ill-formed term -/

theorem test_wellFormed_refuses_jmp_r7 : (Instr.jmp .r7).wellFormed = false := by decide
theorem test_wellFormed_refuses_service_vectors :
    (Instr.trap 0x20#8).wellFormed = false ∧ (Instr.trap 0x22#8).wellFormed = false ∧ (Instr.trap 0x25#8).wellFormed = false := by
  decide
theorem test_wellFormed_boundaries :
    (Instr.jmp .r6).wellFormed = true ∧ (Instr.trap 0x1F#8).wellFormed = true ∧ (Instr.trap 0x26#8).wellFormed = true := by decide

/-! ## Decoding: every constructor, by a word written bit by bit from R72, R74 -/

theorem test_decode_addReg : decode 0b0001_011_001_0_00_010#16 = .addReg .r3 .r1 .r2 := by decide
theorem test_decode_addReg_ignores : decode 0b0001_011_001_0_11_010#16 = .addReg .r3 .r1 .r2 := by decide
theorem test_decode_addImm : decode 0b0001_000_001_1_11101#16 = .addImm .r0 .r1 0b11101#5 := by decide
theorem test_decode_andReg : decode 0b0101_011_001_0_00_010#16 = .andReg .r3 .r1 .r2 := by decide
theorem test_decode_andImm : decode 0b0101_010_010_1_00000#16 = .andImm .r2 .r2 0#5 := by decide
theorem test_decode_notReg : decode 0b1001_101_100_111111#16 = .notReg .r5 .r4 := by decide
theorem test_decode_br : decode 0b0000_100_111111110#16 = .br 0b100#3 0x1FE#9 := by decide
theorem test_decode_jmp : decode 0b1100_000_010_000000#16 = .jmp .r2 := by decide
theorem test_decode_ret : decode 0b1100_000_111_000000#16 = .ret := by decide
theorem test_decode_jsr : decode 0b0100_1_00000000101#16 = .jsr 5#11 := by decide
theorem test_decode_jsrr : decode 0b0100_0_00_011_000000#16 = .jsrr .r3 := by decide
theorem test_decode_ld : decode 0b0010_001_000000101#16 = .ld .r1 5#9 := by decide
theorem test_decode_ldi : decode 0b1010_010_000000010#16 = .ldi .r2 2#9 := by decide
theorem test_decode_ldr : decode 0b0110_011_100_111111#16 = .ldr .r3 .r4 0x3F#6 := by decide
theorem test_decode_lea : decode 0b1110_000_111111101#16 = .lea .r0 0x1FD#9 := by decide
theorem test_decode_st : decode 0b0011_001_000000010#16 = .st .r1 2#9 := by decide
theorem test_decode_sti : decode 0b1011_001_000000010#16 = .sti .r1 2#9 := by decide
theorem test_decode_str : decode 0b0111_001_010_000100#16 = .str .r1 .r2 4#6 := by decide
theorem test_decode_rti : decode 0b1000_000000000000#16 = .rti 0#12 := by decide
theorem test_decode_res : decode 0b1101_000100100011#16 = .res 0x123#12 := by decide
theorem test_decode_trap : decode 0b1111_0000_00100110#16 = .trap 0x26#8 := by decide
theorem test_decode_services :
    decode 0xF020#16 = .getc ∧ decode 0xF021#16 = .out ∧ decode 0xF022#16 = .puts ∧ decode 0xF023#16 = .inChar ∧
    decode 0xF024#16 = .putsp ∧ decode 0xF025#16 = .halt ∧ decode 0xFF25#16 = .halt := by decide

/-- The table's own words: the match value of each row decodes to the row's instruction. -/
theorem test_table_rows_decode : ∀ row ∈ opcodeTable, (decode row.matchBits).rowName = row.name := by decide

/-- The words R85 and R86 write for NOT and for RET, HALT (R85, R86). -/
theorem test_encode_canonical :
    encode (.notReg .r5 .r4) = 0x9B3F#16 ∧ encode .ret = 0xC1C0#16 ∧ encode .halt = 0xF025#16 ∧ encode (.rti 0) = 0x8000#16 := by
  decide

theorem test_decodeTableWord : decodeTableWord 16 0x1642 = some (.addReg .r3 .r1 .r2) := by decide

/-! ## Primitives -/

/-- 95_test_vectors.md 2.1. -/
theorem test_sext : sext 0b10000#5 = 0xFFF0#16 ∧ sext 0b01111#5 = 0x000F#16 ∧ sext 0b100000#6 = 0xFFE0#16 ∧
    sext 0x100#9 = 0xFF00#16 ∧ sext 0x0FF#9 = 0x00FF#16 ∧ sext 0x400#11 = 0xFC00#16 ∧ sext 0x3FF#11 = 0x03FF#16 := by decide
/-- 95_test_vectors.md 2.2. -/
theorem test_condOf : condOf 0x0000#16 = 2#16 ∧ condOf 0x0001#16 = 1#16 ∧ condOf 0x7FFF#16 = 1#16 ∧ condOf 0x8000#16 = 4#16 ∧
    condOf 0xFFFF#16 = 4#16 := by decide
/-- The canonical form: writing the unlisted value removes the entry (log 1). -/
theorem test_memory_canonical : ((Memory.mk [(1, 5#16), (9, 7#16)]).write 1#16 0#16) = ⟨[(9, 7#16)]⟩ ∧
    ((Memory.mk [(1, 5#16), (9, 7#16)]).write 4#16 6#16) = ⟨[(1, 5#16), (4, 6#16), (9, 7#16)]⟩ := by decide
/-- R23. -/
theorem test_slots : (Slot.ofIndex 8 = some .pc) ∧ (Slot.ofIndex 9 = some .cond) ∧ (Slot.ofIndex 10 = none) := by decide

/-! ## One step of each instruction -/

/-- V-ADD-2. -/
theorem test_add_overflow_wraps : (after [(.r1, 0x7FFF#16), (.r2, 0x0001#16)] [] 0x1642#16).map
    (fun t => (t.reg .r3, t.cond, t.pc)) = some (0x8000#16, 4#16, 0x3001#16) := by decide
/-- V-ADD-5: SR1 = SR2 = DR. -/
theorem test_add_same_register : (after [(.r1, 0x4000#16)] [] 0x1241#16).map (fun t => (t.reg .r1, t.cond)) =
    some (0x8000#16, 4#16) := by decide
/-- V-ADD-9 (W3). -/
theorem test_addImm_negative : (after [(.r1, 5#16)] [] 0x107D#16).map (fun t => (t.reg .r0, t.cond)) = some (2#16, 1#16) := by
  decide
/-- V-ADD-6. -/
theorem test_addImm_least : (after [(.r1, 0x0010#16)] [] 0x1470#16).map (fun t => (t.reg .r2, t.cond)) = some (0#16, 2#16) := by
  decide
/-- V-AND-1 (W4). -/
theorem test_and_zero : (after [(.r1, 0x00F0#16), (.r2, 0x0F00#16)] [] 0x5642#16).map (fun t => (t.reg .r3, t.cond)) =
    some (0#16, 2#16) := by decide
/-- V-AND-4. -/
theorem test_andImm_keeps_high_bits : (after [(.r1, 0x1234#16)] [] 0x5470#16).map (fun t => (t.reg .r2, t.cond)) =
    some (0x1230#16, 1#16) := by decide
/-- V-NOT-1, V-NOT-5. -/
theorem test_not : (after [(.r4, 0x00FF#16)] [] 0x9B3F#16).map (fun t => (t.reg .r5, t.cond)) = some (0xFF00#16, 4#16) ∧
    (after [(.r4, 0x00FF#16)] [] 0x9B00#16).map (fun t => t.reg .r5) = some 0xFF00#16 := by decide
/-- 95_test_vectors.md 2.5, the rows of COND = N and P. -/
theorem test_br_masks : [0x0002#16, 0x0202#16, 0x0402#16, 0x0602#16, 0x0802#16, 0x0A02#16, 0x0C02#16, 0x0E02#16].map (pcAfter 4#16) =
      [some 0x3001#16, some 0x3001#16, some 0x3001#16, some 0x3001#16, some 0x3003#16, some 0x3003#16, some 0x3003#16, some 0x3003#16] ∧
    [0x0002#16, 0x0202#16, 0x0402#16, 0x0602#16, 0x0802#16, 0x0A02#16, 0x0C02#16, 0x0E02#16].map (pcAfter 1#16) =
      [some 0x3001#16, some 0x3003#16, some 0x3001#16, some 0x3003#16, some 0x3001#16, some 0x3003#16, some 0x3001#16, some 0x3003#16] := by
  decide
/-- V-BR-2: from 0xFFFF, offset +1. -/
theorem test_br_wraps : (nextOf (step (place (State.reset.setPc 0xFFFF#16) 0x0E01#16))).map (·.pc) =
    some 0x0001#16 := by decide
/-- V-JMP-2, V-RET-1. -/
theorem test_jmp_ret : (after [(.r2, 0x4000#16)] [] 0xCE80#16).map (·.pc) = some 0x4000#16 ∧
    (after [(.r7, 0x3011#16)] [] 0xC1C0#16).map (·.pc) = some 0x3011#16 := by decide
/-- V-JSR-2. -/
theorem test_jsr : (after [] [] 0x4C00#16).map (fun t => (t.reg .r7, t.pc)) = some (0x3001#16, 0x2C01#16) := by decide
/-- V-JSRR-1. -/
theorem test_jsrr : (after [(.r3, 0x5000#16)] [] 0x40C0#16).map (fun t => (t.reg .r7, t.pc)) = some (0x3001#16, 0x5000#16) := by
  decide
/-- V-JSRR-2: R7 is written first (D5). -/
theorem test_jsrr_r7 : (after [(.r7, 0x6000#16)] [] 0x41C0#16).map (fun t => (t.reg .r7, t.pc)) = some (0x3001#16, 0x3001#16) := by
  decide
/-- V-LD-1. -/
theorem test_ld : (after [] [(0x3006, 0x8000#16)] 0x2205#16).map (fun t => (t.reg .r1, t.cond)) = some (0x8000#16, 4#16) := by decide
/-- V-LDI-1 (W5). -/
theorem test_ldi : (after [] [(0x3003, 0x4000#16), (0x4000, 0x1234#16)] 0xA402#16).map (fun t => (t.reg .r2, t.cond)) =
    some (0x1234#16, 1#16) := by decide
/-- V-LDR-2: DR = BaseR. -/
theorem test_ldr_same_register : (after [(.r4, 0x4000#16)] [(0x4000, 0xFFFF#16)] 0x6900#16).map (fun t => (t.reg .r4, t.cond)) =
    some (0xFFFF#16, 4#16) := by decide
/-- V-LDR-3: the address wraps. -/
theorem test_ldr_wraps : (after [] [(0xFFFF, 1#16)] 0x647F#16).map (fun t => t.reg .r2) = some 1#16 := by decide
/-- V-LEA-2: COND from the address. -/
theorem test_lea : (nextOf (step (place (State.reset.setPc 0x7FFF#16) 0xE000#16))).map (fun t => (t.reg .r0, t.cond)) =
    some (0x8000#16, 4#16) := by decide
/-- V-ST-1, V-ST-2. -/
theorem test_st : (after [(.r1, 0xBEEF#16)] [] 0x3202#16).map (fun t => (t.memRead 0x3003#16, t.cond)) = some (0xBEEF#16, 2#16) ∧
    (after [(.r0, 0x1234#16)] [] 0x31FF#16).map (fun t => (t.memRead 0x3000#16, t.pc)) = some (0x1234#16, 0x3001#16) := by decide
/-- V-STI-2: the pointer cell is overwritten. -/
theorem test_sti_self : (after [(.r1, 0x1234#16)] [(0x3001, 0x3001#16)] 0xB200#16).map (fun t => t.memRead 0x3001#16) =
    some 0x1234#16 := by decide
/-- V-STR-2: the address wraps. -/
theorem test_str_wraps : (after [(.r1, 0x55#16), (.r2, 0xFFFF#16)] [] 0x7281#16).map (fun t => t.memRead 0#16) = some 0x55#16 := by
  decide
/-- V-RES-2. -/
theorem test_rti_noop : (after [(.r7, 0x1234#16)] [] 0x8FFF#16).map (fun t => (t.pc, t.reg .r7, t.cond, t.run, t.diag)) =
    some (0x3001#16, 0x1234#16, 2#16, .running, [.malformedInstruction 0x8FFF#16]) := by decide
/-- V-RES-3. -/
theorem test_res_noop : (after [] [] 0xD123#16).map (fun t => (t.pc, t.regs, t.diag)) =
    some (0x3001#16, State.reset.regs, [.malformedInstruction 0xD123#16]) := by decide
/-- V-TRAP-20. -/
theorem test_trap_unlisted : (after [] [] 0xF026#16).map (fun t => (t.reg .r7, t.pc, t.output, t.run)) =
    some (0x3001#16, 0x3001#16, [], .running) := by decide
/-- V-TRAP-3. -/
theorem test_getc_zero_extends : (afterTrap [some (.byte 0xFF#8)] 0xF020#16).map
    (fun t => (t.reg .r0, t.cond, t.reg .r7, t.output, t.inputPos)) = some (0x00FF#16, 1#16, 0x3001#16, [], 1) := by decide
/-- V-TRAP-4. -/
theorem test_getc_failure : (afterTrap [some .failure] 0xF020#16).map (fun t => (t.run, t.reg .r7, t.pc, t.reg .r0, t.cond)) =
    some (.ioFault, 0x3001#16, 0x3001#16, 0#16, 2#16) := by decide
/-- V-TRAP-5. -/
theorem test_out : (after [(.r0, 0x1241#16)] [] 0xF021#16).map (fun t => (t.output, t.reg .r7)) =
    some ([.byte 0x41#8, .flush], 0x3001#16) := by decide
/-- V-TRAP-7: only a zero cell ends the string. -/
theorem test_puts_low_bytes : (after [(.r0, 0x4000#16)] [(0x4000, 0x4100#16), (0x4001, 0x0041#16)] 0xF022#16).map (·.output) =
    some [.byte 0#8, .byte 0x41#8, .flush] := by decide
/-- V-TRAP-9: the scan wraps. -/
theorem test_puts_wraps : (after [(.r0, 0xFFFF#16)] [(0, 0x0042#16), (0xFFFF, 0x0041#16)] 0xF022#16).map (·.output) =
    some [.byte 0x41#8, .byte 0x42#8, .flush] := by decide
/-- V-TRAP-11. -/
theorem test_in_echo : (afterTrap [some (.byte 0x80#8)] 0xF023#16).map (fun t => (t.reg .r0, t.output)) =
    some (0x0080#16, (Config.inPrompt.map .byte ++ [.byte 0x80#8]) ++ [.flush]) := by rfl
/-- V-TRAP-12. -/
theorem test_in_failure : (afterTrap [some .failure] 0xF023#16).map (fun t => (t.run, t.reg .r0, t.output)) =
    some (.ioFault, 0#16, Config.inPrompt.map .byte) := by rfl
/-- V-TRAP-13. -/
theorem test_putsp : (after [(.r0, 0x4000#16)] [(0x4000, 0x6548#16), (0x4001, 0x006C#16), (0x4002, 0x4141#16)] 0xF024#16).map (·.output) =
    some [.byte 0x48#8, .byte 0x65#8, .byte 0x6C#8, .flush] := by decide
/-- V-TRAP-16: a zero low byte ends it. -/
theorem test_putsp_zero_low_byte : (after [(.r0, 0x4000#16)] [(0x4000, 0x4100#16)] 0xF024#16).map (·.output) = some [.flush] := by
  decide
/-- V-TRAP-18. -/
theorem test_halt : (after [] [] 0xF025#16).map (fun t => (t.run, t.reg .r7, t.pc)) = some (.halted, 0x3001#16, 0x3001#16) := by decide
/-- V-RUN-1. -/
theorem test_halted_stays : step { State.reset with run := .halted } = .next { State.reset with run := .halted } := by rfl
/-- V-RUN-3. -/
theorem test_assertReset : (State.assertReset { positive with run := .ioFault, mem := ⟨[(7, 9#16)]⟩, output := [.flush] }) =
    withCells [(7, 9#16)] := by decide
/-- A read the host has not answered waits, and completes when the answer is there (R200; log 13). -/
theorem test_getc_waits : (afterTrap [none, some (.byte 0x61#8)] 0xF020#16).map
    (fun t => (t.service, t.run, t.reg .r7)) = some (some .getc, .running, 0x3001#16) := by decide
theorem test_getc_goes_on : ((afterTrap [none, some (.byte 0x61#8)] 0xF020#16).bind fun t => nextOf (step t)).map
    (fun u => (u.reg .r0, u.pc, u.service)) = some (0x61#16, 0x3001#16, none) := by decide
/-- A read under way that gets no answer, then a failure: R231's effects and no others. -/
theorem test_wait_then_failure : ((afterTrap [none, none, some .failure] 0xF020#16).bind fun t => nextOf (step t)).map
      (fun u => (u.service, u.run, u.reg .r0, u.cond)) = some (some .getc, .running, 0#16, 2#16) ∧
    (nextOf (step { positive with service := some .inChar, input := [some .failure] })).map
      (fun u => (u.service, u.run, u.reg .r0, u.cond, u.output)) = some (none, .ioFault, 0#16, 1#16, []) := by decide
/-- The units on W3's word. -/
theorem test_datapath : ((datapath 0x107D#16 (State.reset.setReg .r1 5#16)).reg .r0) = 2#16 := by decide

/-! ## Witnesses: concrete states and operands that meet the hypotheses of each statement that has any -/

/-- The cells 0 to n-1 all holding 0x0101: neither a zero cell nor a zero byte. -/
def filled (n : Nat) : Memory := ⟨(List.range n).map fun k => (k, 0x0101#16)⟩

theorem lookup_const (v : Word) (l : List Nat) (a : Nat) :
    lookupCell (l.map fun k => (k, v)) a = if a ∈ l then v else Memory.unlisted := by
  induction l with
  | nil => rfl
  | cons k rest ih =>
    simp only [List.map_cons, lookupCell, ih, List.mem_cons]
    by_cases h : k = a
    · simp [h]
    · simp [h, Ne.symm h]

theorem filled_read (n : Nat) (a : Word) : (filled n).read a = if a.toNat < n then 0x0101#16 else 0x0000#16 := by
  simp [filled, Memory.read, lookup_const, Memory.unlisted]

theorem launch_read (m : Memory) (a : Word) : (State.launch m).memRead a = m.read a := rfl

/-- Reset at `pc` with a word there. -/
def at' (pc w : Word) : State := place (State.reset.setPc pc) w

theorem witness_DecodeOfEncodeIsIdentity : ∀ i ∈ [Instr.ret, .jmp .r6, .addImm .r7 .r7 31#5, .br 7#3 511#9, .jsr 2047#11,
    .trap 0x1F#8, .trap 0x26#8, .trap 0xFF#8, .rti 4095#12, .halt], i.wellFormed = true := by decide
theorem witness_IgnoredBitsChangeNothing :
    (0x9B00#16 ^^^ 0x9B3F#16) &&& (decode 0x9B00#16).readBits = 0#16 ∧
    (0xF025#16 ^^^ 0xFF25#16) &&& (decode 0xF025#16).readBits = 0#16 := by decide
theorem witness_WordMatchesExactlyItsTableRows : (⟨.halt, 0xF025#16, 0xF0FF#16, some .trap⟩ : TableRow) ∈ opcodeTable := by
  decide
theorem witness_StepRunsTheDecodedInstruction : ∀ s ∈ [State.reset, at' 0xFFFF#16 0x0E01#16], s.run = .running ∧
    s.service = none ∧ (decode (s.memRead s.pc)).wellFormed = true := by decide
theorem witness_LoopCheckStopsOutsideRunning : (∀ r ∈ [RunState.halted, .ioFault], ({ State.reset with run := r }).run ≠ .running) ∧
    State.reset.run = .running ∧ State.reset.service = none := by decide
theorem witness_EndedRunsStayAsTheyAre : ({ State.reset with run := .halted }).run ≠ .running := by decide
theorem witness_StepKeepsInvariant : State.Inv (at' 0x3000#16 0x107D#16) ∧
    ∃ t, step (at' 0x3000#16 0x107D#16) = .next t := by
  refine ⟨⟨by decide, by decide, trivial⟩, _, rfl⟩
/-- A read under way meets the invariant too. -/
theorem witness_Inv_waiting : State.Inv { State.reset with service := some .inChar } :=
  ⟨by decide, by decide, rfl⟩
theorem witness_LaunchedRunsMeetInvariant : (Memory.mk [(0, 5#16), (0xFFFF, 7#16)]).wf ∧
    ∃ t, Reaches (State.launch ⟨[(0, 5#16), (0xFFFF, 7#16)]⟩) t ∧ t.pc = 0x3001#16 :=
  ⟨by decide, _, .step .refl rfl, rfl⟩
theorem witness_ExactlyOneFlagIsActive : condLegal positive.cond ∧ ∃ t, step positive = .next t :=
  ⟨by decide, _, rfl⟩
theorem witness_EqualReadsMeanEqualMemories : (Memory.mk [(3, 1#16)]).wf ∧ (State.reset.memWrite 3#16 1#16).mem.wf ∧
    ∀ a : Word, (Memory.mk [(3, 1#16)]).read a = (State.reset.memWrite 3#16 1#16).mem.read a :=
  ⟨by decide, by decide, fun _ => rfl⟩
theorem witness_BranchMaskBitsTestTheirFlags : condLegal 1#16 ∧ condLegal 2#16 ∧ condLegal 4#16 := by decide
/-- A step that gives a next state in which the part named is as said. -/
def stepsTo (s : State) (p : State → Bool) : Bool := (nextOf (step s)).any p

theorem witness_FlagsFollowTheListedWritesOnly : (at' 0x3000#16 0x107D#16).run = .running ∧
    stepsTo (at' 0x3000#16 0x107D#16) (fun t => t.cond = 4#16) = true ∧
    stepsTo (at' 0x3000#16 0xF021#16) (fun t => t.cond = 2#16) = true ∧
    stepsTo (place (heard [some (.byte 0x80#8)]) 0xF020#16) (fun t => t.cond = 1#16) = true ∧
    stepsTo (place (heard [some .failure]) 0xF020#16) (fun t => t.cond = 2#16) = true ∧
    stepsTo (place (heard [none]) 0xF023#16) (fun t => t.cond = 2#16) = true := by decide +kernel
theorem witness_RegistersChangeOnlyAsTabulated :
    stepsTo (at' 0x3000#16 0x4805#16) (fun t => t.reg .r7 ≠ 0#16) = true ∧
    stepsTo (place (heard [some (.byte 0x61#8)]) 0xF020#16) (fun t => t.reg .r0 ≠ 0#16 ∧ t.reg .r7 ≠ 0#16) = true := by decide +kernel
theorem witness_UnreadRegistersMakeNoDifference : (Instr.str .r1 .r2 0#6).wellFormed = true ∧
    .r3 ∉ readRegs (.str .r1 .r2 0#6) ∧ .r7 ∉ readRegs (.jsrr .r6) ∧ .r0 ∉ readRegs .getc := by decide +kernel
theorem witness_OnlyStoresChangeMemory :
    stepsTo (place (State.reset.setReg .r1 5#16) 0x3202#16) (fun t => t.memRead 0x3003#16 ≠ 0#16) = true ∧
    stepsTo (place (State.reset.setReg .r1 5#16) 0xB202#16) (fun t => t.memRead 0#16 ≠ 0#16) = true ∧
    stepsTo (place (State.reset.setReg .r1 5#16) 0x7280#16) (fun t => t.memRead 0#16 ≠ 0#16) = true := by decide +kernel
theorem witness_PcIsSequentialUnlessTransferred : (at' 0xFFFF#16 0x1000#16).run = .running ∧
    (at' 0xFFFF#16 0x1000#16).service = none ∧ stepsTo (at' 0xFFFF#16 0x1000#16) (fun t => t.pc = 0#16) = true := by decide +kernel
theorem witness_RunStateChangesOnlyByHaltOrInputFailure :
    stepsTo (at' 0x3000#16 0xF025#16) (fun t => t.run ≠ .running) = true ∧
    stepsTo (place (heard [some .failure]) 0xF023#16) (fun t => t.run ≠ .running) = true ∧
    stepsTo { heard [some .failure] with service := some .getc } (fun t => t.run ≠ .running) = true := by decide +kernel
theorem witness_OutputTraceOnlyGrows : stepsTo (at' 0x3000#16 0xF021#16) (fun t => t.output ≠ []) = true ∧
    stepsTo (at' 0x3000#16 0x1000#16) (fun t => t.output = []) = true := by decide +kernel
theorem witness_InputIsTakenOnlyByGetcAndIn :
    stepsTo (place (heard [some (.byte 9#8)]) 0xF020#16) (fun t => t.input = [] ∧ t.inputPos = 1) = true ∧
    stepsTo (place (heard [some .failure]) 0xF020#16) (fun t => t.input = [] ∧ t.inputPos = 0) = true ∧
    stepsTo (place (heard [some .failure]) 0xF021#16) (fun t => t.input = [some .failure]) = true := by decide +kernel
/-- Reset at 0xFFFE with a word there, and 0xFFFF in cell 0. -/
def storer (w : Word) : State := place ((withCells [(0, 0xFFFF#16)]).setPc 0xFFFE#16) w
theorem witness_StoreIsSeenByTheNextFetch :
    (storer 0x3000#16).run = .running ∧ (storer 0x3000#16).service = none ∧
    storeAddress (decode ((storer 0x3000#16).memRead 0xFFFE#16)) ((storer 0x3000#16).setPc 0xFFFF#16) = some 0xFFFF#16 ∧
    storeAddress (decode ((storer 0x3001#16).memRead 0xFFFE#16)) ((storer 0x3001#16).setPc 0xFFFF#16) = some 0x0000#16 ∧
    storeAddress (decode ((storer 0xB001#16).memRead 0xFFFE#16)) ((storer 0xB001#16).setPc 0xFFFF#16) = some 0xFFFF#16 ∧
    storeAddress (decode ((storer 0x707F#16).memRead 0xFFFE#16)) ((storer 0x707F#16).setPc 0xFFFF#16) = some 0xFFFF#16 := by
  decide +kernel
theorem witness_SignExtensionTestsBitNMinusOne : 5 ∈ [5, 6, 9, 11] ∧ 6 ∈ [5, 6, 9, 11] ∧ 9 ∈ [5, 6, 9, 11] ∧ 11 ∈ [5, 6, 9, 11] := by
  decide
theorem witness_AddRegisterSumsModulo65536 : opcodeOf 0x1642#16 = .add ∧ slice 0x1642#16 5 1 = 0#1 := by decide
theorem witness_AddImmediateAddsSignedImm5 : opcodeOf 0x107D#16 = .add ∧ slice 0x107D#16 5 1 = 1#1 := by decide
theorem witness_AndRegisterIsBitwise : opcodeOf 0x5642#16 = .and ∧ slice 0x5642#16 5 1 = 0#1 := by decide
theorem witness_AndImmediateUsesSignExtendedImm5 : opcodeOf 0x54A0#16 = .and ∧ slice 0x54A0#16 5 1 = 1#1 := by decide
theorem witness_NotComplements : opcodeOf 0x9B3F#16 = .not := by decide
theorem witness_BranchTakenWhenMaskMeetsCond : opcodeOf 0x0602#16 = .br := by decide
theorem witness_JmpAndRetGoToTheRegister : opcodeOf 0xC080#16 = .jmp ∧ opcodeOf 0xC1C0#16 = .jmp := by decide
theorem witness_JsrLinksAndBranches : opcodeOf 0x4805#16 = .jsr ∧ slice 0x4805#16 11 1 = 1#1 := by decide
theorem witness_JsrrLinksBeforeReadingBase : opcodeOf 0x40C0#16 = .jsr ∧ slice 0x40C0#16 11 1 = 0#1 := by decide
theorem witness_LdLoadsPcRelative : opcodeOf 0x2205#16 = .ld := by decide
theorem witness_LdiLoadsThroughPointer : opcodeOf 0xA402#16 = .ldi := by decide
theorem witness_LdrLoadsBasePlusOffset : opcodeOf 0x673F#16 = .ldr := by decide
theorem witness_LeaLoadsTheAddress : opcodeOf 0xE1FD#16 = .lea := by decide
theorem witness_StStoresPcRelative : opcodeOf 0x3202#16 = .st ∧ 0x0001#16 = (State.reset.setPc 0xFFFF#16).pc + (2#9).signExtend 16 := by decide
theorem witness_StiStoresThroughPointer : opcodeOf 0xB202#16 = .sti ∧
    0xFFFF#16 = (withCells [(0x2FFF, 0xFFFF#16)]).memRead (0x3000#16 + (0x1FF#9).signExtend 16) := by decide
theorem witness_StrStoresBasePlusOffset : opcodeOf 0x7284#16 = .str ∧ 0xFFE0#16 = State.reset.reg .r2 + (0x20#6).signExtend 16 := by decide
theorem witness_RtiAndResAreNoOps : opcodeOf 0x8000#16 = .rti ∧ opcodeOf 0xD123#16 = .res ∧ (∃ low, Instr.rti 4095#12 = .rti low) ∧ (∃ low, Instr.res 0#12 = .res low) :=
  ⟨by decide, by decide, ⟨_, rfl⟩, ⟨_, rfl⟩⟩
theorem witness_MalformedDiagnosticCarriesTheWord : slice 0x8000#16 12 4 = 0x8#4 ∧ slice 0xDFFF#16 12 4 = 0xD#4 := by decide
theorem witness_UnlistedTrapOnlySavesReturn : (0x00#8).toNat < 0x20 ∧ (0x1F#8).toNat < 0x20 ∧ 0x25 < (0x26#8).toNat ∧
    0x25 < (0xFF#8).toNat := by decide
theorem witness_GetcReadsOneByteWithoutEcho : (heard [some (.byte 0#8)]).hostAnswer = some (.byte 0#8) ∧
    (heard [some (.byte 0xFF#8)]).hostAnswer = some (.byte 0xFF#8) := by decide
theorem witness_InPromptsReadsAndEchoes : (heard [some (.byte 0x80#8)]).hostAnswer = some (.byte 0x80#8) := by decide
theorem witness_InputFailureEndsInIoFault : (heard [some .failure]).hostAnswer = some .failure := by decide
theorem witness_UnansweredReadWaits : (heard [none]).hostAnswer = none ∧
    (∀ sv ∈ [Service.getc, .inChar], ∀ a ∈ [none, some HostAnswer.failure, some (.byte 1#8)],
      ({ heard [a] with service := some sv }).run = .running ∧ ({ heard [a] with service := some sv }).service = some sv ∧
      ({ heard [a] with service := some sv }).hostAnswer = a) := by decide
/-- An empty string, one of two characters that wraps, and the longest there is. -/
theorem witness_PutsWritesCellsUpToZero :
    State.reset.memRead (State.reset.reg .r0 + BitVec.ofNat 16 0) = 0#16 ∧
    (∀ k, k < 2 → ((withCells [(0, 0x42#16), (0xFFFF, 0x4100#16)]).setReg .r0 0xFFFF#16).memRead (0xFFFF#16 + BitVec.ofNat 16 k)
      ≠ 0#16) ∧
    ((withCells [(0, 0x42#16), (0xFFFF, 0x4100#16)]).setReg .r0 0xFFFF#16).memRead (0xFFFF#16 + BitVec.ofNat 16 2) = 0#16 := by
  decide
theorem witness_PutsWritesCellsUpToZero_longest : 65535 < 65536 ∧
    (∀ k, k < 65535 → (State.launch (filled 65535)).memRead (State.reset.reg .r0 + BitVec.ofNat 16 k) ≠ 0#16) ∧
    (State.launch (filled 65535)).memRead (State.reset.reg .r0 + BitVec.ofNat 16 65535) = 0#16 := by
  have h : ∀ a : Word, (State.launch (filled 65535)).memRead (State.reset.reg .r0 + a) = (filled 65535).read a := fun a => by
    rw [launch_read, show State.reset.reg .r0 + a = a from BitVec.zero_add a]
  refine ⟨by omega, fun k hk => ?_, ?_⟩
  · rw [h, filled_read, if_pos (by simp; omega)]; decide
  · rw [h, filled_read, if_neg (by simp)]
/-- The k-th cell of a packed string at 0xFFFF whose second cell is v. -/
def packed (v : Word) (k : Nat) : Word :=
  ((withCells [(0, v), (0xFFFF, 0x6548#16)]).setReg .r0 0xFFFF#16).memRead (0xFFFF#16 + BitVec.ofNat 16 k)
/-- A string a zero low byte ends, and one a zero high byte ends; the empty one. -/
theorem witness_PutspWritesBytesUpToZero : (∀ v, packed v 0 = 0x6548#16) ∧ (∀ v, packed v 1 = v) ∧
    (∀ k, k < 1 → lowByte (packed 0x4100#16 k) ≠ 0#8 ∧ highByte (packed 0x4100#16 k) ≠ 0#8) ∧
    lowByte (packed 0x4100#16 1) = 0#8 ∧
    (∀ k, k < 1 → lowByte (packed 0x006C#16 k) ≠ 0#8 ∧ highByte (packed 0x006C#16 k) ≠ 0#8) ∧
    lowByte (packed 0x006C#16 1) ≠ 0#8 ∧ highByte (packed 0x006C#16 1) = 0#8 ∧
    lowByte (State.reset.memRead (State.reset.reg .r0 + BitVec.ofNat 16 0)) = 0#8 :=
  ⟨fun _ => rfl, fun _ => rfl, by decide, by decide, by decide, by decide, by decide, by decide⟩
theorem witness_UnterminatedStringNeverEnds : (State.launch (filled 65536)).run = .running ∧
    (∀ a, (State.launch (filled 65536)).memRead a ≠ 0#16) ∧
    (∀ a, lowByte ((State.launch (filled 65536)).memRead a) ≠ 0#8 ∧ highByte ((State.launch (filled 65536)).memRead a) ≠ 0#8) := by
  have h (a : Word) : (State.launch (filled 65536)).memRead a = 0x0101#16 := by
    rw [launch_read, filled_read]; exact if_pos a.isLt
  refine ⟨rfl, fun a => ?_, fun a => ?_⟩
  · rw [h]; decide
  · rw [h]; decide

end Sys2Proof.Tests
end

section
/-! The arithmetic of sign extension (R7). -/

namespace Sys2Proof.Machine

/-- As unsigned numbers: a field below `2 ^ (n - 1)` (test bit clear) is unchanged; any other has the bits above it set. -/
theorem sext_toNat {n : Nat} (x : BitVec n) (hn : n ≤ 16) :
    (sext x).toNat = if x.toNat < 2 ^ (n - 1) then x.toNat else x.toNat + (65536 - 2 ^ n) := by
  have fits : x.toNat % 65536 = x.toNat :=
    Nat.mod_eq_of_lt (Nat.lt_of_lt_of_le x.isLt (Nat.pow_le_pow_right (by decide) hn))
  rw [sext_eq_signExtend, BitVec.toNat_signExtend, BitVec.toNat_setWidth, fits, BitVec.msb_eq_decide]
  by_cases testBit : x.toNat < 2 ^ (n - 1)
  · simp [testBit]
  · simp [testBit, Nat.le_of_not_lt testBit]

/-- Sign extension keeps the field's two's-complement value. -/
theorem sext_toInt {n : Nat} (x : BitVec n) (hn : n ≤ 16) : (sext x).toInt = x.toInt := by
  rw [sext_eq_signExtend, BitVec.toInt_signExtend_of_le hn]

/-- The widths of the instruction's fields are at most a word's. -/
theorem fieldWidth_le_sixteen {n : Nat} (h : n ∈ [5, 6, 9, 11]) : n ≤ 16 :=
  (by decide : ∀ m ∈ [5, 6, 9, 11], m ≤ 16) n h

/-- Settles O27, from the values of `sext` at any width up to a word's. -/
theorem signExtensionTestsBitNMinusOne : Obligations.SignExtensionTestsBitNMinusOne :=
  fun _ x h => ⟨sext_toNat x (fieldWidth_le_sixteen h), sext_toInt x (fieldWidth_le_sixteen h)⟩

end Sys2Proof.Machine
end

section
/-! What an instruction does to the state, said once: the kinds of effect, with what the tables of Machine/Effects.lean list
for each, and the step in these terms. -/

namespace Sys2Proof.Machine

/-- The instruction whose service `sv` is. -/
def Service.instr : Service → Instr
  | .getc => .getc
  | .inChar => .inChar
  | .scan .puts _ => .puts
  | .scan .putsp _ => .putsp

/-- The next step of a machine with a service under way runs that service's instruction (log 13). -/
theorem State.executing_service {s : State} {sv : Service} (h : s.service = some sv) : s.executing = sv.instr := by
  obtain _ | _ | ⟨kind, a⟩ := sv
  case getc => simp [State.executing, Service.instr, h]
  case inChar => simp [State.executing, Service.instr, h]
  case scan => cases kind <;> simp [State.executing, Service.instr, h]

/-- With none under way it runs the word at PC (R102). -/
theorem State.executing_fetch {s : State} (h : s.service = none) : s.executing = decode s.fetchWord := by
  simp [State.executing, h]

/-- The instruction moves PC with this COND: BR taken, JMP, RET, JSR or JSRR (R25). -/
def Transfers (i : Instr) (cond : Word) : Prop :=
  (∃ nzp off9, i = .br nzp off9 ∧ brTaken nzp cond = true) ∨ (∃ baseR, i = .jmp baseR) ∨ i = .ret ∨
  (∃ off11, i = .jsr off11) ∨ (∃ baseR, i = .jsrr baseR)

/-- What executing `i` can make of `s`, the state after the fetch increment. -/
inductive ExecEffect (i : Instr) (s : State) : State → Prop where
  /-- ADD, AND, NOT, LD, LDI, LDR, LEA. -/
  | result (dr : Reg) (v : Word) (flags : flagSource i = some dr) (regs : writtenRegs i = [dr]) :
      ExecEffect i s (s.writeResult dr v)
  /-- ST, STI, STR. -/
  | store (a v : Word) (cell : storeAddress i s = some a) (flags : flagSource i = none) : ExecEffect i s (s.memWrite a v)
  /-- BR taken, JMP, RET. -/
  | transfer (target : Word) (moves : Transfers i s.cond) (flags : flagSource i = none) : ExecEffect i s (s.setPc target)
  /-- JSR, JSRR. -/
  | call (target : Word) (moves : Transfers i s.cond) (flags : flagSource i = none) (regs : writtenRegs i = [.r7]) :
      ExecEffect i s (s.saveReturn.setPc target)
  /-- BR not taken. -/
  | pass (flags : flagSource i = none) : ExecEffect i s s
  /-- RTI, RES. -/
  | malformed (ir : Word) (flags : flagSource i = none) : ExecEffect i s (s.emitMalformed ir)
  /-- TRAP with a vector that selects no service. -/
  | link (flags : flagSource i = none) (regs : writtenRegs i = [.r7]) : ExecEffect i s s.saveReturn
  /-- OUT. -/
  | out (is : i = .out) : ExecEffect i s (outService s.saveReturn)
  /-- HALT. -/
  | halt (is : i = .halt) : ExecEffect i s (haltService s.saveReturn)
  /-- GETC, PUTS, IN, PUTSP: after the R7 write, and IN's prompt, as a service under way goes on. -/
  | service (sv : Service) (prompt : List Byte) (is : i = sv.instr) :
      ExecEffect i s (resumeService sv (s.saveReturn.writeBytes prompt))

theorem State.writeBytes_nil (s : State) : s.writeBytes [] = s := by
  simp [State.writeBytes]

/-- A service with no prompt begins as a service under way goes on. -/
theorem ExecEffect.service_unprompted {i : Instr} {s : State} (sv : Service) (is : i = sv.instr) :
    ExecEffect i s (resumeService sv s.saveReturn) :=
  State.writeBytes_nil s.saveReturn ▸ .service sv [] is

/-- A branch moves PC when it is taken, and passes otherwise. -/
theorem ExecEffect.branch (nzp : BitVec 3) (off9 : BitVec 9) (s : State) :
    ExecEffect (.br nzp off9) s (if brTaken nzp s.cond then s.setPc (s.pcRel9 off9) else s) := by
  split
  case isTrue taken => exact .transfer _ (.inl ⟨nzp, off9, rfl, taken⟩) rfl
  case isFalse => exact .pass rfl

/-- Every well-formed instruction has one of the effects. -/
theorem exec_effect {i : Instr} {s t : State} (wf : i.wellFormed = true) (h : exec i s = .next t) : ExecEffect i s t := by
  cases i with
  | addReg | addImm | andReg | andImm | notReg | ld | ldi | ldr | lea => cases h; exact .result _ _ rfl rfl
  | st | sti | str => cases h; exact .store _ _ rfl rfl
  | br nzp off9 => cases h; exact .branch nzp off9 s
  | jmp baseR => cases h; exact .transfer _ (.inr (.inl ⟨baseR, rfl⟩)) rfl
  | ret => cases h; exact .transfer _ (.inr (.inr (.inl rfl))) rfl
  | jsr off11 => cases h; exact .call _ (.inr (.inr (.inr (.inl ⟨off11, rfl⟩)))) rfl rfl
  | jsrr baseR => cases h; exact .call _ (.inr (.inr (.inr (.inr ⟨baseR, rfl⟩)))) rfl rfl
  | rti | res => cases h; exact .malformed _ rfl
  | trap v =>
    cases h
    rw [trapService_other (by simpa [Instr.wellFormed] using wf)]
    exact .link rfl rfl
  | getc => cases h; exact .service_unprompted .getc rfl
  | out => cases h; exact .out rfl
  | puts => cases h; exact .service_unprompted (.scan .puts _) rfl
  | inChar => cases h; exact .service .inChar Config.inPrompt rfl
  | putsp => cases h; exact .service_unprompted (.scan .putsp _) rfl
  | halt => cases h; exact .halt rfl

theorem decodeTrap_wellFormed (v : BitVec 8) : (decodeTrap v).wellFormed = true := by revert v; decide

theorem decodeJmp_wellFormed (baseR : Reg) : (decodeJmp baseR).wellFormed = true := by cases baseR <;> rfl

/-- The decoder gives JMP through R7 as RET, and TRAP with a service's vector as that service (log 20). -/
theorem decode_wellFormed (w : Word) : (decode w).wellFormed = true := by
  unfold decode
  split
  case h_2 | h_5 | h_6 => split <;> rfl
  case h_13 => exact decodeJmp_wellFormed _
  case h_16 => exact decodeTrap_wellFormed _
  all_goals rfl

/-- A step of a RUNNING machine goes on with the service under way, or has the effect of the word it fetched. -/
theorem step_effect {s t : State} (running : s.run = .running) (h : step s = .next t) :
    (∃ sv, s.service = some sv ∧ s.executing = sv.instr ∧ t = resumeService sv s) ∨
    (s.service = none ∧ s.executing = decode s.fetchWord ∧ ExecEffect s.executing s.advancePc t) := by
  rcases step_cases h with ⟨ended, -⟩ | ⟨-, sv, under, e⟩ | ⟨-, idle, e⟩
  · exact absurd running ended
  · exact .inl ⟨sv, under, State.executing_service under, e⟩
  · have fetched := State.executing_fetch idle
    exact .inr ⟨idle, fetched, fetched ▸ exec_effect (decode_wellFormed _) e⟩

/-- Outside RUNNING the next state is the same state (R101). -/
theorem step_ended_eq {s t : State} (ended : s.run ≠ .running) (h : step s = .next t) : t = s := by
  rw [step_ended ended] at h
  cases h
  rfl

/-- A service reads a character or goes through a string. -/
theorem Service.read_or_scan (sv : Service) : (sv = .getc ∨ sv = .inChar) ∨ ∃ kind a, sv = .scan kind a := by
  cases sv <;> simp

theorem Service.instr_of_read {sv : Service} (read : sv = .getc ∨ sv = .inChar) :
    sv.instr = .getc ∨ sv.instr = .inChar :=
  read.imp (congrArg Service.instr) (congrArg Service.instr)

/-- What a read writes, GETC's and IN's alike: R0 and COND with a byte, the run state with a failure; without an answer it
waits. -/
theorem resumeService_read_cases {sv : Service} (read : sv = .getc ∨ sv = .inChar) (s : State) :
    (∃ b, s.hostAnswer = some (.byte b) ∧ (resumeService sv s).reg .r0 = zext16 b ∧
      (resumeService sv s).cond = condOf (zext16 b) ∧ (resumeService sv s).run = s.run ∧
      (resumeService sv s).service = none) ∨
    (s.hostAnswer = some .failure ∧ (resumeService sv s).reg .r0 = s.reg .r0 ∧ (resumeService sv s).cond = s.cond ∧
      (resumeService sv s).run = .ioFault ∧ (resumeService sv s).service = none) ∨
    (s.hostAnswer = none ∧ (resumeService sv s).reg .r0 = s.reg .r0 ∧ (resumeService sv s).cond = s.cond ∧
      (resumeService sv s).run = s.run ∧ (resumeService sv s).service = some sv) := by
  rcases read with rfl | rfl
  · rcases getcRead_cases s with ⟨b, answer, e⟩ | ⟨answer, e⟩ | ⟨answer, e⟩ <;> simp [resumeService, answer, e]
  · rcases inRead_cases s with ⟨b, answer, e⟩ | ⟨answer, e⟩ | ⟨answer, e⟩ <;> simp [resumeService, answer, e]

end Sys2Proof.Machine
end

section
/-! COND (R26 to R30): the flag update, the writes it follows, and the one flag that is active. -/

namespace Sys2Proof.Machine

/-- Settles O15: bit 15 is the sign. -/
theorem flagUpdateFollowsTheSign : Obligations.FlagUpdateFollowsTheSign := by
  intro s v
  have sign : v.getLsbD 15 = decide (v.toInt < 0) := by rw [← BitVec.msb_eq_toInt, BitVec.msb_eq_getLsbD_last]
  have zero : v.toInt = 0 ↔ v = 0x0000#16 := BitVec.toInt_inj (y := 0x0000#16)
  exact ⟨by simp only [State.setcc_eq, State.setCond_cond, condOf, sign, zero, decide_eq_true_eq], rfl⟩

/-- R28 and R29 for a step that runs `i` from `s`: GETC and IN set COND from the byte they put in R0, if the host gives one;
another instruction from the register `flagSource` names, if any. -/
def FlagRule (i : Instr) (s t : State) : Prop :=
  if i = .getc ∨ i = .inChar then
    match s.hostAnswer with
    | some (.byte b) => t.reg .r0 = zext16 b ∧ t.cond = condOf (zext16 b)
    | some .failure | none => t.reg .r0 = s.reg .r0 ∧ t.cond = s.cond
  else
    match flagSource i with
    | some dr => t.cond = condOf (t.reg dr)
    | none => t.cond = s.cond

theorem FlagRule.of_unlisted {i : Instr} {s t : State} (flags : flagSource i = none) (kept : t.cond = s.cond) :
    FlagRule i s t := by
  have notRead : ¬ (i = .getc ∨ i = .inChar) := by rintro (rfl | rfl) <;> cases flags
  simp [FlagRule, notRead, flags, kept]

theorem FlagRule.of_result {i : Instr} {s : State} {dr : Reg} (v : Word) (flags : flagSource i = some dr)
    (regs : writtenRegs i = [dr]) : FlagRule i s (s.writeResult dr v) := by
  have notRead : ¬ (i = .getc ∨ i = .inChar) := by rintro (rfl | rfl) <;> cases regs
  simp [FlagRule, notRead, flags]

theorem resumeService_flagRule (sv : Service) (s : State) : FlagRule sv.instr s (resumeService sv s) := by
  rcases sv.read_or_scan with read | ⟨kind, a, rfl⟩
  · rw [FlagRule, if_pos (Service.instr_of_read read)]
    rcases resumeService_read_cases read s with ⟨b, answer, r0, cond, -⟩ | ⟨answer, r0, cond, -⟩ | ⟨answer, r0, cond, -⟩ <;>
      simp [answer, r0, cond]
  · obtain ⟨_, _, e⟩ := scanFrom_frame kind a s
    exact .of_unlisted (by cases kind <;> rfl) (by rw [resumeService, e])

/-- The rule sees of the state before only COND, R0 and what the host answers. -/
theorem FlagRule.from_entry {i : Instr} {s u t : State} (answer : u.hostAnswer = s.hostAnswer) (r0 : u.reg .r0 = s.reg .r0)
    (cond : u.cond = s.cond) (h : FlagRule i u t) : FlagRule i s t := by
  simpa only [FlagRule, answer, r0, cond] using h

theorem ExecEffect.flagRule {i : Instr} {s t : State} (h : ExecEffect i s t) : FlagRule i s t := by
  cases h with
  | result dr v flags regs => exact .of_result v flags regs
  | store _ _ _ flags | transfer _ _ flags | call _ _ flags | pass flags | malformed _ flags | link flags =>
    exact .of_unlisted flags rfl
  | out is | halt is => subst is; exact .of_unlisted rfl rfl
  | service sv prompt is =>
    subst is
    exact (resumeService_flagRule sv _).from_entry rfl (by simp) rfl

theorem step_flagRule {s t : State} (running : s.run = .running) (h : step s = .next t) : FlagRule s.executing s t := by
  rcases step_effect running h with ⟨sv, -, under, rfl⟩ | ⟨-, -, effect⟩
  · rw [under]; exact resumeService_flagRule sv s
  · exact effect.flagRule.from_entry rfl rfl rfl

/-- Settles O17, by the effects an instruction can have. -/
theorem flagsFollowTheListedWritesOnly : Obligations.FlagsFollowTheListedWritesOnly :=
  fun _ _ running h => step_flagRule running h

/-- COND after the rule is as it was or a flag update's. -/
theorem FlagRule.cond_cases {i : Instr} {s t : State} (h : FlagRule i s t) : t.cond = s.cond ∨ ∃ v, t.cond = condOf v := by
  unfold FlagRule at h
  split at h <;> split at h
  · exact .inr ⟨_, h.2⟩
  · exact .inl h.2
  · exact .inl h.2
  · exact .inr ⟨_, h⟩
  · exact .inl h

/-- Every step keeps a legal COND (R27). -/
theorem step_keeps_condLegal {s t : State} (legal : condLegal s.cond) (h : step s = .next t) : condLegal t.cond := by
  by_cases running : s.run = .running
  · rcases (step_flagRule running h).cond_cases with e | ⟨v, e⟩
    · rwa [e]
    · rw [e]; exact condOf_legal v
  · rwa [step_ended_eq running h]

/-- A legal COND is a power of two (R26). -/
theorem condLegal_twoPow {c : Word} (legal : condLegal c) : ∃ k, k < 16 ∧ c = BitVec.twoPow 16 k := by
  rcases legal with rfl | rfl | rfl
  · exact ⟨0, by decide, by decide⟩
  · exact ⟨1, by decide, by decide⟩
  · exact ⟨2, by decide, by decide⟩

theorem condLegal_one_bit {c : Word} (legal : condLegal c) : ∃ k, k < 16 ∧ ∀ j, c.getLsbD j = true ↔ j = k := by
  obtain ⟨k, hk, rfl⟩ := condLegal_twoPow legal
  exact ⟨k, hk, fun j => by simp [BitVec.getLsbD_twoPow, hk, eq_comm]⟩

/-- Settles O13: a legal COND is a power of two, every flag update gives one, and every step keeps it. -/
theorem exactlyOneFlagIsActive : Obligations.ExactlyOneFlagIsActive :=
  ⟨fun _ => Iff.rfl, fun _ => condLegal_one_bit, .inr (.inl rfl), fun _ v => condOf_legal v,
    fun _ _ => step_keeps_condLegal⟩

end Sys2Proof.Machine
end

section
/-! The registers, PC and the run state: what a step may write (R22, R25, R33). -/

namespace Sys2Proof.Machine

theorem SameRegsBut.of_setReg (s : State) (r : Reg) (v : Word) : SameRegsBut [r] s (s.setReg r v) := by
  intro q hq
  simp [List.mem_singleton.not.mp hq]

/-- A service writes no register but its instruction's. -/
theorem resumeService_sameRegsBut (sv : Service) (s : State) :
    SameRegsBut (writtenRegs sv.instr) s (resumeService sv s) := by
  intro r unwritten
  cases sv with
  | getc =>
    obtain ⟨-, -, regs, -⟩ := getcRead_frame s
    exact regs r (by rintro rfl; exact unwritten (by decide))
  | inChar =>
    obtain ⟨-, -, regs, -⟩ := inRead_frame s
    exact regs r (by rintro rfl; exact unwritten (by decide))
  | scan kind a =>
    obtain ⟨_, _, e⟩ := scanFrom_frame kind a s
    rw [resumeService, e]
    rfl

/-- Every service's instruction writes R7 (R201). -/
theorem r7_mem_writtenRegs_service (sv : Service) : .r7 ∈ writtenRegs sv.instr := by
  obtain _ | _ | ⟨_ | _, _⟩ := sv <;> simp [Service.instr, writtenRegs]

theorem ExecEffect.sameRegsBut {i : Instr} {s t : State} (h : ExecEffect i s t) : SameRegsBut (writtenRegs i) s t := by
  cases h with
  | result dr v _ regs => rw [regs]; exact .of_setReg s dr v
  | store | transfer | pass | malformed => exact fun _ _ => rfl
  | call _ _ _ regs | link _ regs => rw [regs]; exact .of_setReg s .r7 s.pc
  | out is | halt is => subst is; exact .of_setReg s .r7 s.pc
  | service sv prompt is =>
    subst is
    intro r unwritten
    have linked : r ≠ .r7 := fun e => unwritten (e ▸ r7_mem_writtenRegs_service sv)
    rw [resumeService_sameRegsBut sv _ r unwritten]
    simp [linked]

theorem step_sameRegsBut {s t : State} (running : s.run = .running) (h : step s = .next t) :
    SameRegsBut (writtenRegs s.executing) s t := by
  rcases step_effect running h with ⟨sv, -, under, rfl⟩ | ⟨-, -, effect⟩
  · rw [under]; exact resumeService_sameRegsBut sv s
  · exact effect.sameRegsBut

/-- Settles O18, by the effects an instruction can have. -/
theorem registersChangeOnlyAsTabulated : Obligations.RegistersChangeOnlyAsTabulated := by
  intro s t r h changed
  by_cases running : s.run = .running
  · exact ⟨running, by_contra fun unwritten => changed (step_sameRegsBut running h r unwritten)⟩
  · exact absurd (congrArg (·.reg r) (step_ended_eq running h)) changed

/-- A service leaves PC and memory alone (R211). -/
theorem resumeService_pc_mem (sv : Service) (s : State) :
    (resumeService sv s).pc = s.pc ∧ (resumeService sv s).mem = s.mem := by
  cases sv with
  | getc => obtain ⟨mem, pc, -⟩ := getcRead_frame s; exact ⟨pc, mem⟩
  | inChar => obtain ⟨mem, pc, -⟩ := inRead_frame s; exact ⟨pc, mem⟩
  | scan kind a =>
    obtain ⟨_, _, e⟩ := scanFrom_frame kind a s
    rw [resumeService, e]
    exact ⟨rfl, rfl⟩

theorem ExecEffect.pc {i : Instr} {s t : State} (h : ExecEffect i s t) : t.pc = s.pc ∨ Transfers i s.cond := by
  cases h with
  | transfer _ moves | call _ moves => exact .inr moves
  | result | store | pass | malformed | link | out | halt => exact .inl rfl
  | service sv prompt => exact .inl (resumeService_pc_mem sv _).1

/-- Settles O21: an instruction that is not a transfer leaves the incremented PC. -/
theorem pcIsSequentialUnlessTransferred : Obligations.PcIsSequentialUnlessTransferred := by
  intro s t running idle h
  rcases step_effect running h with ⟨_, under, -⟩ | ⟨-, fetched, effect⟩
  · exact absurd (idle.symm.trans under) (by simp)
  · rw [fetched] at effect
    rcases effect.pc with e | moves
    · exact .inl (by simp [e])
    · exact .inr moves

/-- The run state after `i` is as it was, or HALTED by HALT, or IO_FAULT by a failed read (R33, R231). -/
def RunRule (i : Instr) (s t : State) : Prop :=
  t.run = s.run ∨ (t.run = .halted ∧ i = .halt) ∨
  (t.run = .ioFault ∧ (i = .getc ∨ i = .inChar) ∧ s.hostAnswer = some .failure)

theorem resumeService_runRule (sv : Service) (s : State) : RunRule sv.instr s (resumeService sv s) := by
  rcases sv.read_or_scan with read | ⟨kind, a, rfl⟩
  · have isRead := Service.instr_of_read read
    rcases resumeService_read_cases read s with ⟨_, -, -, -, run, -⟩ | ⟨failed, -, -, run, -⟩ | ⟨-, -, -, run, -⟩
    · exact .inl run
    · exact .inr (.inr ⟨run, isRead, failed⟩)
    · exact .inl run
  · obtain ⟨_, _, e⟩ := scanFrom_frame kind a s
    exact .inl (by rw [resumeService, e])

theorem ExecEffect.runRule {i : Instr} {s t : State} (h : ExecEffect i s t) : RunRule i s t := by
  cases h with
  | result | store | transfer | call | pass | malformed | link | out => exact .inl rfl
  | halt is => exact .inr (.inl ⟨rfl, is⟩)
  | service sv prompt is => subst is; exact resumeService_runRule sv _

theorem step_runRule {s t : State} (running : s.run = .running) (h : step s = .next t) : RunRule s.executing s t := by
  rcases step_effect running h with ⟨sv, -, under, rfl⟩ | ⟨-, -, effect⟩
  · rw [under]; exact resumeService_runRule sv s
  · exact effect.runRule

/-- Settles O22, by the effects an instruction can have. -/
theorem runStateChangesOnlyByHaltOrInputFailure : Obligations.RunStateChangesOnlyByHaltOrInputFailure := by
  intro s t h changed
  by_cases running : s.run = .running
  · exact ⟨running, (step_runRule running h).resolve_left changed⟩
  · exact absurd (congrArg State.run (step_ended_eq running h)) changed

end Sys2Proof.Machine
end

section
/-! The invariant over a step: COND (above), memory and the service under way, each by itself. -/

namespace Sys2Proof.Machine

theorem ExecEffect.mem {i : Instr} {s t : State} (h : ExecEffect i s t) :
    t.mem = s.mem ∨ ∃ a v, storeAddress i s = some a ∧ t.mem = s.mem.write a v := by
  cases h with
  | store a v cell => exact .inr ⟨a, v, cell, rfl⟩
  | result | transfer | call | pass | malformed | link | out | halt => exact .inl rfl
  | service sv prompt => exact .inl (resumeService_pc_mem sv _).2

theorem step_keeps_mem_wf {s t : State} (wf : s.mem.wf) (h : step s = .next t) : t.mem.wf := by
  by_cases running : s.run = .running
  · rcases step_effect running h with ⟨sv, -, -, rfl⟩ | ⟨-, -, effect⟩
    · rwa [(resumeService_pc_mem sv s).2]
    · rcases effect.mem with e | ⟨a, v, -, e⟩ <;> rw [e]
      · exact wf
      · exact Memory.write_wf wf a v
  · rwa [step_ended_eq running h]

theorem State.serviceOk_of_none {s : State} (h : s.service = none) : s.serviceOk := by
  simp [State.serviceOk, h]

/-- A service that goes on in a RUNNING machine is over or in order: it waits with the run state unchanged, or has gone over
a lap of a memory that it leaves as it is. -/
theorem resumeService_serviceOk (sv : Service) {s : State} (running : s.run = .running) :
    (resumeService sv s).serviceOk := by
  rcases sv.read_or_scan with read | ⟨kind, a, rfl⟩
  · rcases resumeService_read_cases read s with
      ⟨_, -, -, -, -, ended⟩ | ⟨-, -, -, -, ended⟩ | ⟨-, -, -, run, waits⟩
    · exact State.serviceOk_of_none ended
    · exact State.serviceOk_of_none ended
    · rcases read with rfl | rfl <;> simp [State.serviceOk, waits, run, running]
  · rcases scanFrom_cases kind a s with ⟨-, e⟩ | ⟨endless, e⟩ <;> rw [resumeService, e]
    · exact State.serviceOk_of_none rfl
    · simp [State.serviceOk, running, endless]

theorem ExecEffect.serviceOk {i : Instr} {s t : State} (h : ExecEffect i s t) (running : s.run = .running)
    (idle : s.service = none) : t.serviceOk := by
  cases h with
  | result | store | transfer | call | pass | malformed | link | out | halt => exact State.serviceOk_of_none idle
  | service sv prompt => exact resumeService_serviceOk sv running

theorem step_keeps_serviceOk {s t : State} (ok : s.serviceOk) (h : step s = .next t) : t.serviceOk := by
  by_cases running : s.run = .running
  · rcases step_effect running h with ⟨sv, -, -, rfl⟩ | ⟨idle, -, effect⟩
    · exact resumeService_serviceOk sv running
    · exact effect.serviceOk running idle
  · rwa [step_ended_eq running h]

/-- Settles O11, from its three parts. -/
theorem stepKeepsInvariant : Obligations.StepKeepsInvariant := by
  rintro s t ⟨cond, mem, service⟩ h
  exact ⟨step_keeps_condLegal cond h, step_keeps_mem_wf mem h, step_keeps_serviceOk service h⟩

end Sys2Proof.Machine
end

section
/-! The registers an instruction reads (R22), as noninterference: its meaning is composed of updates none of which lets the
value of an unread register through. -/

namespace Sys2Proof.Machine

/-- The value of `r` makes no difference to what `f` does, except that `r` itself may keep it. -/
def IgnoresReg (r : Reg) (f : State → State) : Prop :=
  ∀ (s : State) (v : Word), f (s.setReg r v) = f s ∨ f (s.setReg r v) = (f s).setReg r v

variable {r : Reg}

theorem IgnoresReg.of_comm {f : State → State} (h : ∀ s v, f (s.setReg r v) = (f s).setReg r v) : IgnoresReg r f :=
  fun s v => .inr (h s v)

theorem IgnoresReg.comp {f g : State → State} (hf : IgnoresReg r f) (hg : IgnoresReg r g) :
    IgnoresReg r (fun s => f (g s)) := by
  intro s v
  dsimp only
  rcases hg s v with e | e <;> rw [e]
  · exact .inl rfl
  · exact hf (g s) v

/-- A write of a value that does not depend on `r`: it covers `r`, or it commutes with the write of `r`. -/
theorem IgnoresReg.setReg (q : Reg) {g : State → Word} (hg : ∀ s v, g (s.setReg r v) = g s) :
    IgnoresReg r (fun s => s.setReg q (g s)) := by
  intro s v
  dsimp only
  rw [hg]
  by_cases covers : r = q
  · subst covers; exact .inl (State.setReg_setReg_same s r v _)
  · exact .inr (State.setReg_comm s covers v _)

theorem IgnoresReg.writeResult (dr : Reg) {g : State → Word} (hg : ∀ s v, g (s.setReg r v) = g s) :
    IgnoresReg r (fun s => s.writeResult dr (g s)) := by
  intro s v
  have written := IgnoresReg.setReg dr hg s v
  simp only [State.writeResult_eq, hg] at written ⊢
  rcases written with e | e <;> rw [e]
  · exact .inl rfl
  · exact .inr rfl

theorem IgnoresReg.setPc {g : State → Word} (hg : ∀ s v, g (s.setReg r v) = g s) :
    IgnoresReg r (fun s => s.setPc (g s)) :=
  .of_comm fun s v => by rw [hg]; rfl

theorem IgnoresReg.memWrite {a g : State → Word} (ha : ∀ s v, a (s.setReg r v) = a s)
    (hg : ∀ s v, g (s.setReg r v) = g s) : IgnoresReg r (fun s => s.memWrite (a s) (g s)) :=
  .of_comm fun s v => by rw [ha, hg]; rfl

theorem IgnoresReg.saveReturn : IgnoresReg r State.saveReturn := .setReg .r7 (g := State.pc) fun _ _ => rfl

/-- Taking the host's answer, whatever it is, does not look at the registers. -/
theorem IgnoresReg.takeAnswer (sv : Option Service) : IgnoresReg r (fun s => s.takeAnswer.setService sv) :=
  .of_comm fun s v => by rw [State.setReg_takeAnswer]; rfl

theorem IgnoresReg.getcRead : IgnoresReg r getcRead := by
  intro s v
  unfold Machine.getcRead
  rw [State.setReg_hostAnswer]
  split
  case h_1 b _ => exact (IgnoresReg.writeResult .r0 (g := fun _ => zext16 b) fun _ _ => rfl).comp (.takeAnswer none) s v
  case h_2 => exact (IgnoresReg.of_comm (f := State.raiseIOFailure) fun _ _ => rfl).comp (.takeAnswer none) s v
  case h_3 => exact IgnoresReg.takeAnswer (some .getc) s v

theorem IgnoresReg.inRead : IgnoresReg r inRead := by
  intro s v
  unfold Machine.inRead
  rw [State.setReg_hostAnswer]
  split
  case h_1 b _ =>
    have echo : IgnoresReg r (fun s => (s.writeByte b).flush) := .of_comm fun _ _ => rfl
    exact (IgnoresReg.writeResult .r0 (g := fun _ => zext16 b) fun _ _ => rfl).comp (echo.comp (.takeAnswer none)) s v
  case h_2 => exact (IgnoresReg.of_comm (f := State.raiseIOFailure) fun _ _ => rfl).comp (.takeAnswer none) s v
  case h_3 => exact IgnoresReg.takeAnswer (some .inChar) s v

/-- A string service looks at memory, from the cell it starts at. -/
theorem IgnoresReg.scanFrom (kind : StringKind) {a : State → Word} (ha : ∀ s v, a (s.setReg r v) = a s) :
    IgnoresReg r (fun s => scanFrom kind (a s) s) :=
  .of_comm fun s v => by
    simp only [Machine.scanFrom, ha, State.setReg_mem]
    split <;> rfl

theorem IgnoresReg.outService (unread : ∀ s v, (State.setReg s r v).reg .r0 = s.reg .r0) : IgnoresReg r outService :=
  .of_comm fun s v => by simp only [Machine.outService, unread]; rfl

theorem IgnoresReg.haltService : IgnoresReg r haltService := .of_comm fun _ _ => rfl

theorem IgnoresReg.branch (nzp : BitVec 3) (off9 : BitVec 9) :
    IgnoresReg r (fun s => if brTaken nzp s.cond then s.setPc (s.pcRel9 off9) else s) :=
  .of_comm fun s v => (apply_ite (State.setReg · r v) (brTaken nzp s.cond = true) (s.setPc (s.pcRel9 off9)) s).symm

/-- A well-formed instruction's meaning ignores every register that R22 does not list as read. -/
theorem exec_ignoresReg {i : Instr} (wf : i.wellFormed = true) (unread : r ∉ readRegs i) :
    ∃ f, (∀ s, exec i s = .next (f s)) ∧ IgnoresReg r f := by
  have reads {q : Reg} (h : q ∈ readRegs i) (s : State) (v : Word) : (s.setReg r v).reg q = s.reg q := by
    rw [State.setReg_reg, if_neg (ne_of_mem_of_not_mem h unread)]
  cases i with
  | addReg dr sr1 sr2 | andReg dr sr1 sr2 =>
    have first := reads (q := sr1) (by simp [readRegs])
    have second := reads (q := sr2) (by simp [readRegs])
    exact ⟨_, fun _ => rfl, .writeResult dr fun s v => congrArg₂ _ (first s v) (second s v)⟩
  | addImm dr sr1 imm5 | andImm dr sr1 imm5 =>
    have source := reads (q := sr1) (by simp [readRegs])
    exact ⟨_, fun _ => rfl, .writeResult dr fun s v => congrArg (alu _ · (sext imm5)) (source s v)⟩
  | notReg dr sr =>
    have source := reads (q := sr) (by simp [readRegs])
    exact ⟨_, fun _ => rfl, .writeResult dr fun s v => congrArg (alu _ · 0) (source s v)⟩
  | ld dr off9 | ldi dr off9 | lea dr off9 => exact ⟨_, fun _ => rfl, .writeResult dr fun _ _ => rfl⟩
  | ldr dr baseR off6 =>
    have base := reads (q := baseR) (by simp [readRegs])
    exact ⟨_, fun _ => rfl, .writeResult dr fun s v => congrArg (fun b => s.memRead (b + sext off6)) (base s v)⟩
  | st sr off9 | sti sr off9 =>
    exact ⟨_, fun _ => rfl, .memWrite (fun _ _ => rfl) (reads (q := sr) (by simp [readRegs]))⟩
  | str sr baseR off6 =>
    have base := reads (q := baseR) (by simp [readRegs])
    exact ⟨_, fun _ => rfl,
      .memWrite (fun s v => congrArg (· + sext off6) (base s v)) (reads (q := sr) (by simp [readRegs]))⟩
  | br nzp off9 => exact ⟨_, fun _ => rfl, .branch nzp off9⟩
  | jmp baseR => exact ⟨_, fun _ => rfl, .setPc (reads (q := baseR) (by simp [readRegs]))⟩
  | ret => exact ⟨_, fun _ => rfl, .setPc (reads (q := .r7) (by simp [readRegs]))⟩
  | jsr off11 => exact ⟨_, fun _ => rfl, (IgnoresReg.setPc (g := (·.pcRel11 off11)) fun _ _ => rfl).comp .saveReturn⟩
  | jsrr baseR =>
    have base := reads (q := baseR) (by simp [readRegs])
    exact ⟨_, fun _ => rfl, (IgnoresReg.setPc (g := (·.reg baseR)) base).comp .saveReturn⟩
  | rti | res => exact ⟨_, fun _ => rfl, .of_comm fun _ _ => rfl⟩
  | trap v =>
    have noService := trapService_other (v := v) (by simpa [Instr.wellFormed] using wf)
    exact ⟨_, fun s => congrArg Host.Outcome.next (noService s.saveReturn), .saveReturn⟩
  | getc => exact ⟨_, fun _ => rfl, IgnoresReg.getcRead.comp .saveReturn⟩
  | out => exact ⟨_, fun _ => rfl, (IgnoresReg.outService (reads (by simp [readRegs]))).comp .saveReturn⟩
  | puts =>
    have start := reads (q := .r0) (by simp [readRegs])
    exact ⟨_, fun _ => rfl, (IgnoresReg.scanFrom .puts (a := (·.reg .r0)) start).comp .saveReturn⟩
  | inChar =>
    have prompt : IgnoresReg r (State.writeBytes · Config.inPrompt) := .of_comm fun _ _ => rfl
    exact ⟨_, fun _ => rfl, (IgnoresReg.inRead.comp prompt).comp .saveReturn⟩
  | putsp =>
    have start := reads (q := .r0) (by simp [readRegs])
    exact ⟨_, fun _ => rfl, (IgnoresReg.scanFrom .putsp (a := (·.reg .r0)) start).comp .saveReturn⟩
  | halt => exact ⟨_, fun _ => rfl, IgnoresReg.haltService.comp .saveReturn⟩

end Sys2Proof.Machine
end

section
/-! The settled statements on the registers read and on reset (R22, R36, R260). -/

namespace Sys2Proof.Machine

/-- Settles O19, with the meaning as a function that ignores the register. -/
theorem unreadRegistersMakeNoDifference : Obligations.UnreadRegistersMakeNoDifference := by
  intro i s r v wf unread
  obtain ⟨f, meaning, ignores⟩ := exec_ignoresReg wf unread
  exact ⟨f s, f (s.setReg r v), meaning s, meaning (s.setReg r v), ignores s v⟩

/-- Settles O58, field by field. -/
theorem resetValues : Obligations.ResetValues :=
  ⟨State.reset_reg, rfl, rfl, rfl, rfl, rfl, rfl, rfl, rfl, fun _ => ⟨rfl, rfl⟩⟩

end Sys2Proof.Machine
end

section
/-! Memory as data (R50, log 1): canonical memories that read the same list the same cells. -/

namespace Sys2Proof.Machine

/-- With the addresses strictly rising, an address reads as the entry listed for it. -/
theorem lookupCell_eq_of_mem {cells : List (Nat × Word)} (sorted : cells.Pairwise (fun c d => c.1 < d.1))
    {c : Nat × Word} (listed : c ∈ cells) : lookupCell cells c.1 = c.2 := by
  induction cells with
  | nil => cases listed
  | cons head rest ih =>
    obtain ⟨rises, sortedRest⟩ := List.pairwise_cons.mp sorted
    rcases List.mem_cons.mp listed with rfl | later
    · exact if_pos rfl
    · exact (if_neg (rises c later).ne).trans (ih sortedRest later)

/-- A word other than what an unlisted address reads as is read from an entry. -/
theorem mem_of_lookupCell {cells : List (Nat × Word)} {k : Nat} {w : Word} (reads : lookupCell cells k = w)
    (written : w ≠ Memory.unlisted) : (k, w) ∈ cells := by
  induction cells with
  | nil => exact absurd reads.symm written
  | cons head rest ih =>
    obtain ⟨j, u⟩ := head
    by_cases here : j = k
    · simp only [lookupCell, if_pos here] at reads
      simp [here, reads]
    · simp only [lookupCell, if_neg here] at reads
      exact List.mem_cons_of_mem _ (ih reads)

/-- A listed address is one of the 65536, so what it reads as is what some `Memory.read` gives. -/
theorem Memory.cells_subset_of_reads {m m' : Memory} (wf : m.wf) (same : ∀ a : Word, m.read a = m'.read a) :
    m.cells ⊆ m'.cells := by
  obtain ⟨sorted, entries⟩ := wf
  intro c listed
  obtain ⟨inRange, written⟩ := entries c listed
  have address : (BitVec.ofNat 16 c.1).toNat = c.1 := Nat.mod_eq_of_lt inRange
  have reads : lookupCell m'.cells c.1 = c.2 := by
    have sameHere := same (BitVec.ofNat 16 c.1)
    rw [Memory.read, Memory.read, address, lookupCell_eq_of_mem sorted listed] at sameHere
    exact sameHere.symm
  exact mem_of_lookupCell reads written

/-- Settles O14: either memory lists every cell the other does, and in rising order a list is determined by its entries. -/
theorem equalReadsMeanEqualMemories : Obligations.EqualReadsMeanEqualMemories := by
  intro m m' wf wf' same
  have sorted : m.cells.Pairwise (InvImage (· < ·) Prod.fst) := wf.1
  have sorted' : m'.cells.Pairwise (InvImage (· < ·) Prod.fst) := wf'.1
  have cells : m.cells = m'.cells :=
    List.Subset.antisymm_of_pairwise sorted sorted' (Memory.cells_subset_of_reads wf same)
      (Memory.cells_subset_of_reads wf' fun a => (same a).symm)
  exact congrArg Memory.mk cells

end Sys2Proof.Machine
end

section
/-! The invariant along a run. -/

namespace Sys2Proof.Machine

/-- A launch has reset's COND and no service under way, and the memory it is given. -/
theorem launch_inv {mem0 : Memory} (wf : mem0.wf) : (State.launch mem0).Inv where
  cond := .inr (.inl rfl)
  mem := wf
  service := State.serviceOk_of_none rfl

theorem Reaches.inv {s t : State} (h : Reaches s t) (start : s.Inv) : t.Inv := by
  induction h with
  | refl => exact start
  | step _ next ih => exact stepKeepsInvariant _ _ ih next

/-- Settles O12: reset is the launch with the empty memory, a launch meets the invariant and every step keeps it. -/
theorem launchedRunsMeetInvariant : Obligations.LaunchedRunsMeetInvariant :=
  ⟨launch_inv reset_mem_wf, fun _ wf _ run => run.inv (launch_inv wf)⟩

end Sys2Proof.Machine
end

section
/-! Stores: the one cell a step may change (R51), and the fetch that follows (R62). -/

namespace Sys2Proof.Machine

/-- A step leaves memory as it is, or it fetches ST, STI or STR and writes the cell at its effective address. -/
theorem step_mem_cases {s t : State} (h : step s = .next t) :
    t.mem = s.mem ∨ s.run = .running ∧ s.service = none ∧
      ∃ a v, storeAddress (decode s.fetchWord) s.advancePc = some a ∧ t.mem = s.mem.write a v := by
  by_cases running : s.run = .running
  · rcases step_effect running h with ⟨sv, -, -, rfl⟩ | ⟨idle, fetched, effect⟩
    · exact .inl (resumeService_pc_mem sv s).2
    · rw [fetched] at effect
      exact effect.mem.imp_right fun store => ⟨running, idle, store⟩
  · exact .inl (congrArg State.mem (step_ended_eq running h))

/-- Settles O20: the cell that changed is the one written. -/
theorem onlyStoresChangeMemory : Obligations.OnlyStoresChangeMemory := by
  intro s t a h changed
  simp only [State.memRead] at changed
  rcases step_mem_cases h with same | ⟨running, idle, b, v, cell, written⟩
  · exact absurd (congrArg (·.read a) same) changed
  · have here : a = b := by
      by_contra elsewhere
      rw [written, Memory.read_write, if_neg elsewhere] at changed
      exact changed rfl
    subst here
    exact ⟨running, idle, cell⟩

theorem storeAddress_decodeJmp (baseR : Reg) (s : State) : storeAddress (decodeJmp baseR) s = none := by
  unfold decodeJmp
  split <;> rfl

theorem storeAddress_decodeTrap (v : BitVec 8) (s : State) : storeAddress (decodeTrap v) s = none := by
  unfold decodeTrap
  split_ifs <;> rfl

/-- A decoded instruction that has a store address writes SR, the register of bits 11 to 9, there (R165 to R167). -/
theorem exec_decode_store {w : Word} {s : State} {a : Word} (cell : storeAddress (decode w) s = some a) :
    exec (decode w) s = .next (s.memWrite a (s.reg (drOf w))) := by
  unfold decode at cell ⊢
  split at cell
  case h_4 | h_8 | h_12 => cases cell; rfl
  case h_2 | h_5 | h_6 => split at cell <;> cases cell
  case h_13 => rw [storeAddress_decodeJmp] at cell; cases cell
  case h_16 => rw [storeAddress_decodeTrap] at cell; cases cell
  all_goals cases cell

/-- The word at PC after a store: the value stored, if it went to that cell. -/
theorem State.memWrite_fetchWord (s : State) (a v : Word) :
    (s.memWrite a v).fetchWord = if a = s.pc then v else s.fetchWord := by
  simp [State.fetchWord, eq_comm]

/-- Settles O25: the fetch after the store reads the written memory (R57) at the incremented PC. -/
theorem storeIsSeenByTheNextFetch : Obligations.StoreIsSeenByTheNextFetch := by
  intro s a running idle cell
  have stored := (step_fetch running idle).trans (exec_decode_store cell)
  have twice : s.pc + 1#16 + 1#16 = s.pc + 2#16 := BitVec.add_assoc ..
  refine ⟨_, stored, rfl, by simp [State.fetchWord], Eq.trans (step_fetch running idle) ?_⟩
  rw [State.memWrite_fetchWord, ← twice]
  rfl

end Sys2Proof.Machine
end

section
/-! Fields of a word: words that agree under a mask are words that agree on the fields the mask covers. -/

namespace Sys2Proof

theorem and_eq_iff_bits (w w' m : Word) :
    w &&& m = w' &&& m ↔ ∀ i, m.getLsbD i = true → w.getLsbD i = w'.getLsbD i := by
  constructor
  · intro same i masked
    have bit := congrArg (BitVec.getLsbD · i) same
    simpa only [BitVec.getLsbD_and, masked, Bool.and_true] using bit
  · intro bits
    refine BitVec.eq_of_getLsbD_eq fun i _ => ?_
    rw [BitVec.getLsbD_and, BitVec.getLsbD_and]
    cases masked : m.getLsbD i
    · simp only [Bool.and_false]
    · rw [bits i masked]

theorem and_eq_of_xor_and_eq_zero {w w' m : Word} (same : (w ^^^ w') &&& m = 0#16) : w &&& m = w' &&& m := by
  rw [and_eq_iff_bits]
  intro i masked
  simpa [masked] using congrArg (BitVec.getLsbD · i) same

theorem slice_eq_iff_bits (w w' : Word) (lo len : Nat) :
    slice w lo len = slice w' lo len ↔ ∀ i, lo ≤ i → i < lo + len → w.getLsbD i = w'.getLsbD i := by
  have sliceBit (v : Word) {k : Nat} (inField : k < len) : (slice v lo len).getLsbD k = v.getLsbD (lo + k) := by
    simp only [slice, BitVec.getLsbD_extractLsb', inField, decide_true, Bool.true_and]
  constructor
  · intro same i above below
    obtain ⟨k, rfl⟩ := Nat.exists_eq_add_of_le above
    have inField : k < len := by omega
    rw [← sliceBit w inField, ← sliceBit w' inField, same]
  · intro bits
    refine BitVec.eq_of_getLsbD_eq fun k inField => ?_
    rw [sliceBit w inField, sliceBit w' inField]
    exact bits _ (by omega) (by omega)

/-- The words agree on each field, a field being its lowest bit and its length. -/
def AgreeOn (fields : List (Nat × Nat)) (w w' : Word) : Prop :=
  ∀ f ∈ fields, slice w f.1 f.2 = slice w' f.1 f.2

theorem AgreeOn.symm {fields : List (Nat × Nat)} {v w : Word} (h : AgreeOn fields v w) : AgreeOn fields w v :=
  fun f listed => (h f listed).symm

theorem AgreeOn.trans {fields : List (Nat × Nat)} {u v w : Word} (h : AgreeOn fields u v) (h' : AgreeOn fields v w) :
    AgreeOn fields u w :=
  fun f listed => (h f listed).trans (h' f listed)

theorem AgreeOn.mono {fields more : List (Nat × Nat)} {v w : Word} (h : AgreeOn more v w) (sub : fields ⊆ more) :
    AgreeOn fields v w :=
  fun f listed => h f (sub listed)

/-- The mask has its ones exactly at the bits of the fields. -/
abbrev Masks (m : Word) (fields : List (Nat × Nat)) : Prop :=
  ∀ i < 16, m.getLsbD i = true ↔ ∃ f ∈ fields, f.1 ≤ i ∧ i < f.1 + f.2

theorem Masks.and_eq_iff {m : Word} {fields : List (Nat × Nat)} (masks : Masks m fields) (w w' : Word) :
    w &&& m = w' &&& m ↔ AgreeOn fields w w' := by
  simp only [and_eq_iff_bits, AgreeOn, slice_eq_iff_bits]
  constructor
  · intro bits f listed i above below
    by_cases inWord : i < 16
    · exact bits i ((masks i inWord).mpr ⟨f, listed, above, below⟩)
    · have beyond := Nat.le_of_not_lt inWord
      rw [BitVec.getLsbD_of_ge w i beyond, BitVec.getLsbD_of_ge w' i beyond]
  · intro fieldBits i masked
    obtain ⟨f, listed, above, below⟩ := (masks i (BitVec.lt_of_getLsbD masked)).mp masked
    exact fieldBits f listed i above below

end Sys2Proof
end

section
/-! The fields of each format's words, through the forms the encoder fills in (R74). -/

namespace Sys2Proof

theorem slice_opcode (w : Word) : slice w 12 4 = (opcodeOf w).bits := (Opcode.bits_ofBits _).symm

@[simp] theorem slice_format12_opcode (op : Opcode) (low : BitVec 12) : slice (format12 op low) 12 4 = op.bits := by
  rw [slice_opcode, opcodeOf_format12]

@[simp] theorem slice_format9_opcode (op : Opcode) (a : BitVec 3) (o : BitVec 9) :
    slice (format9 op a o) 12 4 = op.bits :=
  slice_format12_opcode op _

@[simp] theorem slice_format6_opcode (op : Opcode) (a b : BitVec 3) (c : BitVec 6) :
    slice (format6 op a b c) 12 4 = op.bits :=
  slice_format12_opcode op _

@[simp] theorem slice_registerForm_flag (op : Opcode) (a b : BitVec 3) (sr2 : Reg) :
    slice (format6 op a b (registerForm sr2)) 5 1 = 0#1 :=
  (slice_format6_low op a b _ 5 1 (by decide)).trans (registerForm_flag sr2)

@[simp] theorem slice_registerForm_sr2 (op : Opcode) (a b : BitVec 3) (sr2 : Reg) :
    slice (format6 op a b (registerForm sr2)) 0 3 = sr2.bits :=
  (slice_format6_low op a b _ 0 3 (by decide)).trans (registerForm_sr2 sr2)

@[simp] theorem slice_immediateForm_flag (op : Opcode) (a b : BitVec 3) (imm5 : BitVec 5) :
    slice (format6 op a b (immediateForm imm5)) 5 1 = 1#1 :=
  (slice_format6_low op a b _ 5 1 (by decide)).trans (immediateForm_flag imm5)

@[simp] theorem slice_immediateForm_imm5 (op : Opcode) (a b : BitVec 3) (imm5 : BitVec 5) :
    slice (format6 op a b (immediateForm imm5)) 0 5 = imm5 :=
  (slice_format6_low op a b _ 0 5 (by decide)).trans (immediateForm_imm5 imm5)

@[simp] theorem slice_jsrForm_flag (op : Opcode) (off11 : BitVec 11) :
    slice (format12 op (jsrForm off11)) 11 1 = 1#1 :=
  (slice_format12 op _ 11 1 (by decide)).trans (jsrForm_flag off11)

@[simp] theorem slice_jsrForm_off11 (op : Opcode) (off11 : BitVec 11) :
    slice (format12 op (jsrForm off11)) 0 11 = off11 :=
  (slice_format12 op _ 0 11 (by decide)).trans (jsrForm_off11 off11)

/-- JSRR's word has bit 11 clear (R78). -/
@[simp] theorem slice_format6_zero_flag (op : Opcode) (b : BitVec 3) :
    slice (format6 op 0#3 b 0#6) 11 1 = 0#1 := by
  rw [format6, slice_format12 op _ 11 1 (by decide)]
  revert b; decide

@[simp] theorem slice_trapForm_vect8 (op : Opcode) (v : BitVec 8) : slice (format12 op (trapForm v)) 0 8 = v :=
  (slice_format12 op _ 0 8 (by decide)).trans (trapForm_vect8 v)

/-- A word is its opcode and its low twelve bits. -/
theorem format12_slice {w : Word} {op : Opcode} (opcode : opcodeOf w = op) : format12 op (slice w 0 12) = w := by
  have whole : Masks (BitVec.allOnes 16) [(12, 4), (0, 12)] := by decide
  have same := (whole.and_eq_iff (format12 op (slice w 0 12)) w).mpr (by simp [AgreeOn, slice_opcode w, opcode])
  simpa only [BitVec.and_allOnes] using same

end Sys2Proof
end

section
/-! Decode and encode (R71 to R81): both rest on which fields of the word an instruction's handler reads. -/

namespace Sys2Proof

/-- The fields of the word that the instruction's handler reads: `Instr.readBits`, field by field. -/
def Instr.readFields : Instr → List (Nat × Nat)
  | .addReg _ _ _ | .andReg _ _ _ => [(12, 4), (9, 3), (6, 3), (5, 1), (0, 3)]
  | .addImm _ _ _ | .andImm _ _ _ => [(12, 4), (9, 3), (6, 3), (5, 1), (0, 5)]
  | .notReg _ _ => [(12, 4), (9, 3), (6, 3)]
  | .br _ _ | .ld _ _ | .ldi _ _ | .lea _ _ | .st _ _ | .sti _ _ => [(12, 4), (9, 3), (0, 9)]
  | .jmp _ | .ret => [(12, 4), (6, 3)]
  | .jsr _ => [(12, 4), (11, 1), (0, 11)]
  | .jsrr _ => [(12, 4), (11, 1), (6, 3)]
  | .ldr _ _ _ | .str _ _ _ => [(12, 4), (9, 3), (6, 3), (0, 6)]
  | .rti _ | .res _ => [(12, 4), (0, 12)]
  | .trap _ | .getc | .out | .puts | .inChar | .putsp | .halt => [(12, 4), (0, 8)]

theorem Instr.readBits_masks (i : Instr) : Masks i.readBits i.readFields := by
  cases i <;> (simp only [Instr.readBits, Instr.readFields]; decide)

theorem decodeTrap_other {v : BitVec 8} (noService : isServiceVector v = false) : decodeTrap v = .trap v := by
  revert v; decide

theorem encode_decodeJmp (baseR : Reg) : encode (decodeJmp baseR) = format6 .jmp 0#3 baseR.bits 0#6 := by
  cases baseR <;> rfl

theorem readFields_decodeJmp (baseR : Reg) : (decodeJmp baseR).readFields = [(12, 4), (6, 3)] := by
  cases baseR <;> rfl

theorem encode_decodeTrap (v : BitVec 8) : encode (decodeTrap v) = format12 .trap (trapForm v) := by
  unfold decodeTrap
  split_ifs <;> (subst_vars; rfl)

theorem readFields_decodeTrap (v : BitVec 8) : (decodeTrap v).readFields = [(12, 4), (0, 8)] := by
  unfold decodeTrap
  split_ifs <;> rfl

/-- A word whose read fields are those of an instruction's own word decodes to that instruction: the fields are the operands,
and the opcode and flag among them choose the arm of the decoder. -/
theorem decode_eq_of_agreeOn {i : Instr} {w : Word} (wf : i.wellFormed = true)
    (agree : AgreeOn i.readFields w (encode i)) : decode w = i := by
  cases i with
  | jmp baseR =>
    have notLink : baseR ≠ .r7 := by simpa [Instr.wellFormed] using wf
    simp [AgreeOn, Instr.readFields, encode] at agree
    simp [decode, opcodeOf, sr1Of, decodeJmp, agree, notLink]
  | trap v =>
    have noService : isServiceVector v = false := by simpa [Instr.wellFormed] using wf
    simp [AgreeOn, Instr.readFields, encode] at agree
    simp [decode, opcodeOf, agree, decodeTrap_other noService]
  | ret | getc | out | puts | inChar | putsp | halt =>
    simp [AgreeOn, Instr.readFields, encode] at agree
    simp [decode, opcodeOf, sr1Of, decodeJmp, decodeTrap, agree]
  | _ =>
    simp [AgreeOn, Instr.readFields, encode] at agree
    simp [decode, opcodeOf, drOf, sr1Of, sr2Of, nzpOf, immFlagOf, jsrFlagOf, agree]

/-- The word of the decoded instruction has, in each field read, what the decoder took from there. -/
theorem agreeOn_encode_decode (w : Word) : AgreeOn (decode w).readFields (encode (decode w)) w := by
  have opcodeBits := slice_opcode w
  unfold decode
  split
  all_goals rename_i opcode; rw [opcode] at opcodeBits
  case h_2 | h_6 =>
    split
    case isTrue immediate =>
      have flag : slice w 5 1 = 1#1 := immediate
      simp [AgreeOn, Instr.readFields, encode, drOf, sr1Of, opcodeBits, flag]
    case isFalse register =>
      have flag : slice w 5 1 = 0#1 := (BitVec.eq_zero_or_eq_one _).resolve_right register
      simp [AgreeOn, Instr.readFields, encode, drOf, sr1Of, sr2Of, opcodeBits, flag]
  case h_5 =>
    split
    case isTrue relative =>
      have flag : slice w 11 1 = 1#1 := relative
      simp [AgreeOn, Instr.readFields, encode, opcodeBits, flag]
    case isFalse register =>
      have flag : slice w 11 1 = 0#1 := (BitVec.eq_zero_or_eq_one _).resolve_right register
      simp [AgreeOn, Instr.readFields, encode, sr1Of, opcodeBits, flag]
  case h_13 => simp [AgreeOn, encode_decodeJmp, readFields_decodeJmp, sr1Of, opcodeBits]
  case h_16 => simp [AgreeOn, encode_decodeTrap, readFields_decodeTrap, opcodeBits]
  all_goals simp [AgreeOn, Instr.readFields, encode, drOf, sr1Of, nzpOf, opcodeBits]

/-- The decoder looks at no other bits (R79, D4). -/
theorem decode_congr {w w' : Word} (agree : AgreeOn (decode w).readFields w w') : decode w' = decode w :=
  decode_eq_of_agreeOn (Machine.decode_wellFormed w) (agree.symm.trans (agreeOn_encode_decode w).symm)

/-- Settles O2: an instruction's own word agrees with itself. -/
theorem decodeOfEncodeIsIdentity : Obligations.DecodeOfEncodeIsIdentity :=
  fun _ wf => decode_eq_of_agreeOn wf fun _ _ => rfl

/-- Settles O3, with the read bits as fields. -/
theorem encodeOfDecodeKeepsReadBits : Obligations.EncodeOfDecodeKeepsReadBits :=
  fun w => ⟨Machine.decode_wellFormed w,
    ((decode w).readBits_masks.and_eq_iff _ w).mpr (agreeOn_encode_decode w)⟩

/-- Settles O4: the decoder looks at the read fields only, and RTI and RES write nothing but the diagnostics. -/
theorem ignoredBitsChangeNothing : Obligations.IgnoredBitsChangeNothing := by
  refine ⟨fun w w' same => ?_, fun _ _ _ => ⟨_, _, rfl, rfl, rfl⟩, fun _ _ _ => ⟨_, _, rfl, rfl, rfl⟩⟩
  exact decode_congr (((decode w).readBits_masks.and_eq_iff w w').mp (and_eq_of_xor_and_eq_zero same))

/-- Settles O1: thirteen closed words. -/
theorem specWordsDecode : Obligations.SpecWordsDecode := by
  unfold Obligations.SpecWordsDecode
  decide

end Sys2Proof
end

section
/-! The opcode table (INDEX.md): a row's mask covers fields, and a word matches the row when it has the row's values there. -/

namespace Sys2Proof

/-- The fields that the mask of the row of this name covers. -/
def RowName.fields : RowName → List (Nat × Nat)
  | .addReg | .addImm | .andReg | .andImm => [(12, 4), (5, 1)]
  | .jsr | .jsrr => [(12, 4), (11, 1)]
  | .ret => [(12, 4), (6, 3)]
  | .getc | .out | .puts | .inChar | .putsp | .halt => [(12, 4), (0, 8)]
  | .notReg | .br | .jmp | .ld | .ldi | .ldr | .lea | .st | .sti | .str | .rti | .res | .trap => [(12, 4)]

/-- The match value of the table's row of this name. -/
def RowName.matchBits (n : RowName) : Word := ((opcodeTable.find? (·.name = n)).map (·.matchBits)).getD 0#16

/-- The rows without `alias_of`. -/
def baseRows : List TableRow := opcodeTable.filter (·.base = none)

theorem table_masks : ∀ row ∈ opcodeTable, Masks row.maskBits row.name.fields := by decide

theorem table_matchBits : ∀ row ∈ opcodeTable, row.matchBits = row.name.matchBits := by decide

theorem table_matchBits_masked : ∀ row ∈ opcodeTable, row.matchBits &&& row.maskBits = row.matchBits := by decide

/-- A row with `alias_of` covers all that its instruction's handler reads. -/
theorem table_special_rows : ∀ row ∈ opcodeTable, row.base ≠ none →
    (decode row.matchBits).readFields = row.name.fields ∧ (decode row.matchBits).rowName = row.name := by decide

theorem exists_baseRow (n : RowName) : ∃ row ∈ baseRows, row.name = n.baseRow := by
  cases n <;> decide

/-- Two different base rows demand different values of some bit that both masks cover. -/
theorem baseRows_exclusive : ∀ row ∈ baseRows, ∀ row' ∈ baseRows,
    row.matchBits &&& row'.maskBits = row'.matchBits &&& row.maskBits → row.name = row'.name := by decide

theorem encode_agreeOn_row (i : Instr) : AgreeOn i.rowName.fields (encode i) i.rowName.matchBits := by
  cases i <;> simp [AgreeOn, Instr.rowName, RowName.fields, encode] <;> decide

theorem encode_agreeOn_baseRow (i : Instr) :
    AgreeOn i.rowName.baseRow.fields (encode i) i.rowName.baseRow.matchBits := by
  cases i <;> simp [AgreeOn, Instr.rowName, RowName.baseRow, RowName.fields, encode] <;> decide

theorem rowFields_subset (i : Instr) : i.rowName.fields ⊆ i.readFields := by
  cases i <;> simp [Instr.rowName, RowName.fields, Instr.readFields]

theorem baseRowFields_subset (i : Instr) : i.rowName.baseRow.fields ⊆ i.readFields := by
  cases i <;> simp [Instr.rowName, RowName.baseRow, RowName.fields, Instr.readFields]

theorem matchesWord_iff_and {row : TableRow} {w : Word} :
    row.matchesWord w = true ↔ w &&& row.maskBits = row.matchBits :=
  decide_eq_true_iff

theorem matchesWord_iff_agreeOn {row : TableRow} (listed : row ∈ opcodeTable) (w : Word) :
    row.matchesWord w = true ↔ AgreeOn row.name.fields w row.matchBits := by
  rw [← (table_masks row listed).and_eq_iff, table_matchBits_masked row listed, matchesWord_iff_and]

/-- The decoded instruction's own row and its base row match. -/
theorem matchesWord_of_name {row : TableRow} (listed : row ∈ opcodeTable) {w : Word}
    (named : row.name = (decode w).rowName ∨ row.name = (decode w).rowName.baseRow) : row.matchesWord w = true := by
  rw [matchesWord_iff_agreeOn listed, table_matchBits row listed]
  have encoded := (agreeOn_encode_decode w).symm
  rcases named with name | name <;> rw [name]
  · exact (encoded.mono (rowFields_subset _)).trans (encode_agreeOn_row _)
  · exact (encoded.mono (baseRowFields_subset _)).trans (encode_agreeOn_baseRow _)

/-- A word matches one base row at most. -/
theorem name_eq_of_baseRows_match {row row' : TableRow} (base : row ∈ baseRows) (base' : row' ∈ baseRows) {w : Word}
    (matched : row.matchesWord w = true) (matched' : row'.matchesWord w = true) : row.name = row'.name := by
  rw [matchesWord_iff_and] at matched matched'
  apply baseRows_exclusive row base row' base'
  rw [← matched, ← matched', BitVec.and_assoc, BitVec.and_assoc, BitVec.and_comm row.maskBits]

/-- A word that matches a row with `alias_of` is that row's instruction. -/
theorem name_eq_of_special_match {row : TableRow} (listed : row ∈ opcodeTable) (special : row.base ≠ none) {w : Word}
    (matched : row.matchesWord w = true) : row.name = (decode w).rowName := by
  obtain ⟨fields, name⟩ := table_special_rows row listed special
  rw [matchesWord_iff_agreeOn listed, ← fields] at matched
  rw [decode_congr matched.symm, name]

/-- Settles O5: a base row that matches is the one base row of the word, any other row that matches is the instruction's own. -/
theorem wordMatchesExactlyItsTableRows : Obligations.WordMatchesExactlyItsTableRows := by
  intro w row listed
  refine ⟨fun matched => ?_, matchesWord_of_name listed⟩
  by_cases base : row.base = none
  · obtain ⟨own, ownBase, ownName⟩ := exists_baseRow (decode w).rowName
    have ownMatches := matchesWord_of_name (List.mem_of_mem_filter ownBase) (.inr ownName)
    have isBase : row ∈ baseRows := List.mem_filter.mpr ⟨listed, decide_eq_true base⟩
    exact .inr ((name_eq_of_baseRows_match isBase ownBase matched ownMatches).trans ownName)
  · exact .inl (name_eq_of_special_match listed base matched)

end Sys2Proof
end

section
/-! The six units (D26): with the opcode known the control row is fixed, and the datapath under it is the instruction's
meaning. -/

namespace Sys2Proof.Machine

/-- BR as the units do it: one PC write, of the target or of the PC itself (R107). -/
theorem exec_br (nzp : BitVec 3) (off9 : BitVec 9) (s : State) :
    exec (.br nzp off9) s = .next (s.setPc (if brTaken nzp s.cond then s.pcRel9 off9 else s.pc)) := by
  simp only [exec, execBr]
  split <;> rfl

/-- RET is JMP through R7 (R143). -/
theorem exec_decodeJmp (baseR : Reg) (s : State) : exec (decodeJmp baseR) s = .next (s.setPc (s.reg baseR)) := by
  cases baseR <;> rfl

/-- The decoder's sub-dispatch on the vector and the trap unit's are one (R201). -/
theorem exec_decodeTrap (v : BitVec 8) (s : State) : exec (decodeTrap v) s = .next (trapService v s.saveReturn) := by
  unfold decodeTrap
  split_ifs <;> (subst_vars; rfl)

/-- Settles O26, an opcode at a time; ADD, AND and JSR by their flag bit. The diagnostic of RTI and RES shows the
whole word, which the encoder makes again from its low bits. -/
theorem unitsAgreeWithExec : Obligations.UnitsAgreeWithExec := by
  intro w s
  unfold decode
  split
  all_goals rename_i opcode; simp only [datapath, controlOf, decodedFields, opcode]
  case h_1 => exact exec_br _ _ s
  case h_2 | h_6 =>
    split
    all_goals rename_i flag; simp only [bSelectOf, flag]; rfl
  case h_5 => split <;> rfl
  case h_9 | h_14 => exact congrArg (Host.Outcome.next <| s.emitMalformed ·) (format12_slice opcode)
  case h_13 => exact exec_decodeJmp _ s
  case h_16 => exact exec_decodeTrap _ s
  all_goals rfl

end Sys2Proof.Machine
end

section
/-! The fetch cycle (R101, R102, R110): the loop check, the wrapping increment, and the word the next step runs. -/

namespace Sys2Proof.Machine

/-- The fetch increment is modulo 65536: from 0xFFFF it leaves 0x0000 (R102, R108). -/
theorem State.advancePc_pc_toNat (s : State) : s.advancePc.pc.toNat = (s.pc.toNat + 1) % 65536 :=
  BitVec.toNat_add s.pc 1#16

/-- Settles O6: the state the instruction runs from is `advancePc`'s. -/
theorem stepRunsTheDecodedInstruction : Obligations.StepRunsTheDecodedInstruction := by
  rintro s _ running idle rfl
  exact ⟨s.advancePc, step_fetch running idle, s.advancePc_pc_toNat, rfl⟩

/-- Settles O7, by the loop check's two answers. -/
theorem loopCheckStopsOutsideRunning : Obligations.LoopCheckStopsOutsideRunning :=
  ⟨fun _ => step_ended, fun _ => step_fetch⟩

/-- Placing a 16-bit word is a store to the cell at PC. -/
@[simp] theorem State.withFetchWord_memRead (s : State) (w a : Word) :
    (s.withFetchWord 16 w.toNat).memRead a = if a = s.pc then w else s.memRead a := by
  have whole : BitVec.ofNat 16 (w.toNat % 2 ^ 16) = w := by
    rw [BitVec.toNat_mod_cancel, BitVec.ofNat_toNat, BitVec.setWidth_eq]
  exact (s.memWrite_memRead s.pc a _).trans (by rw [whole])

theorem State.withFetchWord_fetchWord (s : State) (w : Word) : (s.withFetchWord 16 w.toNat).fetchWord = w :=
  (s.withFetchWord_memRead w s.pc).trans (if_pos rfl)

/-- Settles O10: the word read at PC is the one placed, and of what the frame names, loading writes that cell and the increment
PC alone. -/
theorem placedWordRunsNext : Obligations.PlacedWordRunsNext := by
  intro s w
  have ran : step (s.withFetchWord 16 w.toNat) = exec (decode w) (s.withFetchWord 16 w.toNat).advancePc := by
    rw [step_fetch rfl rfl, s.withFetchWord_fetchWord]
  have placed : (s.withFetchWord 16 w.toNat).advancePc.memRead s.pc = w := s.withFetchWord_fetchWord w
  have elsewhere : SameMemoryBut s.pc s (s.withFetchWord 16 w.toNat).advancePc := fun b other =>
    (s.withFetchWord_memRead w b).trans (if_neg other)
  exact ⟨_, ran, rfl, rfl, placed, elsewhere, fun _ _ => rfl, rfl, rfl, rfl, rfl, rfl⟩

end Sys2Proof.Machine
end

section
/-! ADD, AND and NOT (R121 to R125): what the alu computes, and the one result write they share. -/

namespace Sys2Proof

/-- Bit 5 of an ADD selects its form (R77). -/
theorem decode_add {w : Word} (opcode : opcodeOf w = .add) :
    decode w = if immFlagOf w = 1#1 then .addImm (drOf w) (sr1Of w) (slice w 0 5)
      else .addReg (drOf w) (sr1Of w) (sr2Of w) := by
  simp only [decode, opcode]

/-- Bit 5 of an AND selects its form (R77). -/
theorem decode_and {w : Word} (opcode : opcodeOf w = .and) :
    decode w = if immFlagOf w = 1#1 then .andImm (drOf w) (sr1Of w) (slice w 0 5)
      else .andReg (drOf w) (sr1Of w) (sr2Of w) := by
  simp only [decode, opcode]

theorem decode_not {w : Word} (opcode : opcodeOf w = .not) : decode w = .notReg (drOf w) (sr1Of w) := by
  simp only [decode, opcode]

theorem immFlagOf_ne_one {w : Word} (register : slice w 5 1 = 0#1) : immFlagOf w ≠ 1#1 := by
  simp [immFlagOf, register]

namespace Machine

theorem State.writeResult_reg_same (s : State) (dr : Reg) (v : Word) : (s.writeResult dr v).reg dr = v := by
  simp

theorem State.writeResult_cond_eq (s : State) (dr : Reg) (v : Word) :
    (s.writeResult dr v).cond = condOf ((s.writeResult dr v).reg dr) := by
  simp

theorem OnlyResult.of_writeResult (s : State) (dr : Reg) (v : Word) : OnlyResult dr s (s.writeResult dr v) :=
  ⟨.of_setReg s dr v, fun _ => rfl, rfl, ⟨rfl, rfl, rfl⟩, rfl, rfl, rfl, rfl⟩

/-- An instruction that ends in a result write: DR has the value, COND follows DR, and nothing else changes (R28). -/
theorem exec_result {i : Instr} {s : State} {dr : Reg} {v : Word} (meaning : exec i s = .next (s.writeResult dr v)) :
    ∃ t, exec i s = .next t ∧ t.reg dr = v ∧ t.cond = condOf (t.reg dr) ∧ OnlyResult dr s t :=
  ⟨_, meaning, s.writeResult_reg_same dr v, s.writeResult_cond_eq dr v, .of_writeResult s dr v⟩

/-- Adding a sign-extended field adds its two's-complement value, modulo 65536. -/
theorem toNat_add_sext (a : Word) {n : Nat} (x : BitVec n) (hn : n ≤ 16) :
    ((a + sext x).toNat : Int) = ((a.toNat : Int) + x.toInt) % 65536 := by
  have field : ((sext x).toNat : Int) % 65536 = x.toInt % 65536 := by
    rw [← sext_toInt x hn, BitVec.toInt_eq_toNat_bmod]
    exact Int.bmod_emod.symm
  rw [BitVec.toNat_add]
  omega

/-- The bits of a sign extension: from bit N-1 on, all are bit N-1. -/
theorem sext_getLsbD_min {n : Nat} (x : BitVec n) {k : Nat} (inWord : k < 16) :
    (sext x).getLsbD k = x.getLsbD (min k (n - 1)) := by
  rw [sext_getLsbD x k inWord]
  split <;> congr 1 <;> omega

/-- Settles O29: the alu's sum is addition of 16-bit words. -/
theorem addRegisterSumsModulo65536 : Obligations.AddRegisterSumsModulo65536 := by
  refine ⟨fun w opcode register => (decode_add opcode).trans (if_neg (immFlagOf_ne_one register)),
    fun dr sr1 sr2 s => ?_⟩
  obtain ⟨t, ran, sum, rest⟩ := exec_result (i := .addReg dr sr1 sr2) (s := s) rfl
  exact ⟨t, ran, by rw [sum]; exact BitVec.toNat_add .., rest⟩

/-- Settles O30: the second source is the sign-extended field. -/
theorem addImmediateAddsSignedImm5 : Obligations.AddImmediateAddsSignedImm5 := by
  refine ⟨fun w opcode immediate => (decode_add opcode).trans (if_pos immediate), fun dr sr1 imm5 s => ?_⟩
  obtain ⟨t, ran, sum, rest⟩ := exec_result (i := .addImm dr sr1 imm5) (s := s) rfl
  exact ⟨t, ran, by rw [sum]; exact toNat_add_sext _ imm5 (by decide), rest⟩

/-- Settles O31, bit by bit. -/
theorem andRegisterIsBitwise : Obligations.AndRegisterIsBitwise := by
  refine ⟨fun w opcode register => (decode_and opcode).trans (if_neg (immFlagOf_ne_one register)),
    fun dr sr1 sr2 s => ?_⟩
  obtain ⟨t, ran, conjunction, rest⟩ := exec_result (i := .andReg dr sr1 sr2) (s := s) rfl
  exact ⟨t, ran, fun k _ => by rw [conjunction]; exact BitVec.getLsbD_and, rest⟩

/-- Settles O32, bit by bit, with the bits of the extended field. -/
theorem andImmediateUsesSignExtendedImm5 : Obligations.AndImmediateUsesSignExtendedImm5 := by
  refine ⟨fun w opcode immediate => (decode_and opcode).trans (if_pos immediate), fun dr sr1 imm5 s => ?_⟩
  obtain ⟨t, ran, conjunction, rest⟩ := exec_result (i := .andImm dr sr1 imm5) (s := s) rfl
  refine ⟨t, ran, fun k inWord => ?_, rest⟩
  rw [conjunction, ← sext_getLsbD_min imm5 inWord]
  exact BitVec.getLsbD_and

/-- Settles O33: the complement of a 16-bit word is 65535 minus it. -/
theorem notComplements : Obligations.NotComplements := by
  refine ⟨fun w opcode => decode_not opcode, fun dr sr s => ?_⟩
  obtain ⟨t, ran, complement, rest⟩ := exec_result (i := .notReg dr sr) (s := s) rfl
  exact ⟨t, ran, by rw [complement]; exact BitVec.toNat_not, rest⟩

end Machine
end Sys2Proof
end

section
/-! BR, JMP, RET, JSR and JSRR (R140 to R145): their operands, and the two updates they share, a PC write and a link with a
PC write. -/

namespace Sys2Proof

theorem decode_br {w : Word} (opcode : opcodeOf w = .br) : decode w = .br (nzpOf w) (slice w 0 9) := by
  simp only [decode, opcode]

/-- Bit 11 of a JSR word selects JSR or JSRR (R78). -/
theorem decode_jsr {w : Word} (opcode : opcodeOf w = .jsr) :
    decode w = if jsrFlagOf w = 1#1 then .jsr (slice w 0 11) else .jsrr (sr1Of w) := by
  simp only [decode, opcode]

theorem decode_jmp {w : Word} (opcode : opcodeOf w = .jmp) : decode w = decodeJmp (sr1Of w) := by
  simp only [decode, opcode]

theorem jsrFlagOf_ne_one {w : Word} (base : slice w 11 1 = 0#1) : jsrFlagOf w ≠ 1#1 := by
  simp [jsrFlagOf, base]

theorem Reg.ofBits_eq_r7_iff (b : BitVec 3) : Reg.ofBits b = .r7 ↔ b = 7#3 := by
  revert b; decide

namespace Machine

/-- Mask 000 meets no COND, whatever its value. -/
theorem brTaken_emptyMask (c : Word) : brTaken 0b000#3 c = false := by
  simp [brTaken]

/-- Mask 111 meets every COND with one flag in it: each flag is tested by a mask bit that is set. -/
theorem brTaken_fullMask {c : Word} (legal : condLegal c) : brTaken 0b111#3 c = true := by
  rcases legal with rfl | rfl | rfl
  · exact brTaken_positive _
  · exact brTaken_zero _
  · exact brTaken_negative _

/-- Settles O16: the flags' values are their definitions', and each flag meets one mask bit. -/
theorem branchMaskBitsTestTheirFlags : Obligations.BranchMaskBitsTestTheirFlags :=
  ⟨rfl, rfl, rfl, fun nzp => ⟨brTaken_negative nzp, brTaken_zero nzp, brTaken_positive nzp⟩, brTaken_emptyMask,
    fun _ => brTaken_fullMask⟩

theorem OnlyPcAnd.of_setPc (s : State) (target : Word) : OnlyPcAnd [] s (s.setPc target) :=
  ⟨fun _ _ => rfl, fun _ => rfl, rfl, ⟨rfl, rfl, rfl⟩, rfl, rfl, rfl, rfl⟩

theorem OnlyPcAnd.of_saveReturn_setPc (s : State) (target : Word) : OnlyPcAnd [.r7] s (s.saveReturn.setPc target) :=
  ⟨.of_setReg s .r7 s.pc, fun _ => rfl, rfl, ⟨rfl, rfl, rfl⟩, rfl, rfl, rfl, rfl⟩

/-- The link write puts the incremented PC in R7 and changes no other register (R144, R145, R235). -/
theorem State.saveReturn_reg (s : State) (r : Reg) : s.saveReturn.reg r = if r = .r7 then s.pc else s.reg r :=
  s.setReg_reg .r7 r s.pc

/-- An instruction that ends in a PC write changes PC alone. -/
theorem exec_transfer {i : Instr} {s : State} {target : Word} (meaning : exec i s = .next (s.setPc target)) :
    ∃ t, exec i s = .next t ∧ t.pc = target ∧ OnlyPcAnd [] s t :=
  ⟨_, meaning, rfl, .of_setPc s target⟩

/-- An instruction that links and then writes PC changes R7 and PC alone; the R7 write sets no flag (R29). -/
theorem exec_call {i : Instr} {s : State} {target : Word} (meaning : exec i s = .next (s.saveReturn.setPc target)) :
    ∃ t, exec i s = .next t ∧ t.reg .r7 = s.pc ∧ t.pc = target ∧ OnlyPcAnd [.r7] s t :=
  ⟨_, meaning, s.saveReturn_reg .r7, rfl, .of_saveReturn_setPc s target⟩

/-- Settles O34: BR is one PC write, of the target or of the PC itself. -/
theorem branchTakenWhenMaskMeetsCond : Obligations.BranchTakenWhenMaskMeetsCond := by
  refine ⟨fun w opcode => decode_br opcode, fun nzp off9 s => ?_⟩
  obtain ⟨t, ran, pc, rest⟩ := exec_transfer (exec_br nzp off9 s)
  refine ⟨t, ran, ?_, rest⟩
  rw [pc, State.pcRel9, sext_eq_signExtend]
  simp only [brTaken, decide_eq_true_eq]

/-- Settles O35: JMP and RET are one PC write, and the field 111 is R7. -/
theorem jmpAndRetGoToTheRegister : Obligations.JmpAndRetGoToTheRegister := by
  refine ⟨fun w opcode => ?_, fun _ _ => exec_transfer rfl, fun _ => exec_transfer rfl⟩
  simp only [decode_jmp opcode, decodeJmp, sr1Of, Reg.ofBits_eq_r7_iff]

/-- Settles O36: JSR links and then writes PC, with the sign-extended field added. -/
theorem jsrLinksAndBranches : Obligations.JsrLinksAndBranches := by
  refine ⟨fun w opcode relative => (decode_jsr opcode).trans (if_pos relative), fun off11 s => ?_⟩
  rw [← sext_eq_signExtend]
  exact exec_call rfl

/-- Settles O37: JSRR links and then writes PC, from the registers as the link write left them. -/
theorem jsrrLinksBeforeReadingBase : Obligations.JsrrLinksBeforeReadingBase := by
  refine ⟨fun w opcode base => (decode_jsr opcode).trans (if_neg (jsrFlagOf_ne_one base)), fun baseR s => ?_⟩
  rw [← s.saveReturn_reg baseR]
  exact exec_call rfl

end Machine
end Sys2Proof
end

section
/-! LD, LDI, LDR, LEA, ST, STI and STR (R160 to R167): the effective addresses, and the one result write or the one store that
each instruction is. -/

namespace Sys2Proof

theorem decode_ld {w : Word} (opcode : opcodeOf w = .ld) : decode w = .ld (drOf w) (slice w 0 9) := by
  simp only [decode, opcode]

theorem decode_ldi {w : Word} (opcode : opcodeOf w = .ldi) : decode w = .ldi (drOf w) (slice w 0 9) := by
  simp only [decode, opcode]

theorem decode_ldr {w : Word} (opcode : opcodeOf w = .ldr) : decode w = .ldr (drOf w) (sr1Of w) (slice w 0 6) := by
  simp only [decode, opcode]

theorem decode_lea {w : Word} (opcode : opcodeOf w = .lea) : decode w = .lea (drOf w) (slice w 0 9) := by
  simp only [decode, opcode]

theorem decode_st {w : Word} (opcode : opcodeOf w = .st) : decode w = .st (drOf w) (slice w 0 9) := by
  simp only [decode, opcode]

theorem decode_sti {w : Word} (opcode : opcodeOf w = .sti) : decode w = .sti (drOf w) (slice w 0 9) := by
  simp only [decode, opcode]

theorem decode_str {w : Word} (opcode : opcodeOf w = .str) : decode w = .str (drOf w) (sr1Of w) (slice w 0 6) := by
  simp only [decode, opcode]

namespace Machine

theorem State.pcRel9_eq_signExtend (s : State) (off9 : BitVec 9) : s.pcRel9 off9 = s.pc + off9.signExtend 16 := by
  rw [State.pcRel9, sext_eq_signExtend]

theorem State.pcIndirect9_eq_signExtend (s : State) (off9 : BitVec 9) :
    s.pcIndirect9 off9 = s.memRead (s.pc + off9.signExtend 16) := by
  rw [State.pcIndirect9, State.pcRel9_eq_signExtend]

theorem State.baseOff6_eq_signExtend (s : State) (baseR : Reg) (off6 : BitVec 6) :
    s.baseOff6 baseR off6 = s.reg baseR + off6.signExtend 16 := by
  rw [State.baseOff6, sext_eq_signExtend]

/-- A write of one cell changes no other (R57). -/
theorem SameMemoryBut.of_memWrite (s : State) (a v : Word) : SameMemoryBut a s (s.memWrite a v) := fun b other =>
  (s.memWrite_memRead a b v).trans (if_neg other)

/-- An instruction that ends in a store: the cell has the value, and nothing else changes, COND included (R29, R51). -/
theorem exec_store {i : Instr} {s : State} {a v : Word} (meaning : exec i s = .next (s.memWrite a v)) :
    ∃ t, exec i s = .next t ∧ t.memRead a = v ∧ SameMemoryBut a s t ∧ SameRegsBut [] s t ∧ t.cond = s.cond ∧
      t.pc = s.pc ∧ SameHostSide s t := by
  have stored : (s.memWrite a v).memRead a = v := (s.memWrite_memRead a a v).trans (if_pos rfl)
  exact ⟨_, meaning, stored, .of_memWrite s a v, fun _ _ => rfl, rfl, rfl, ⟨rfl, rfl, rfl⟩, rfl, rfl, rfl, rfl⟩

/-- Settles O28: every address but the indirect one is a word plus a sign-extended field. -/
theorem addressesWrapAndCountCells : Obligations.AddressesWrapAndCountCells := fun s _ off9 off6 off11 =>
  ⟨toNat_add_sext _ off9 (by decide), toNat_add_sext _ off11 (by decide), toNat_add_sext _ off6 (by decide),
    s.pcIndirect9_eq_signExtend off9⟩

/-- Settles O38: LD is one result write, of the cell at the PC-relative address. -/
theorem ldLoadsPcRelative : Obligations.LdLoadsPcRelative := by
  refine ⟨fun w opcode => decode_ld opcode, fun dr off9 s => ?_⟩
  rw [← State.pcRel9_eq_signExtend]
  exact exec_result rfl

/-- Settles O39: LDI is one result write, of the cell the pointer names. -/
theorem ldiLoadsThroughPointer : Obligations.LdiLoadsThroughPointer := by
  refine ⟨fun w opcode => decode_ldi opcode, fun dr off9 s => ?_⟩
  rw [← State.pcIndirect9_eq_signExtend]
  exact exec_result rfl

/-- Settles O40: LDR is one result write, its address computed before DR is written. -/
theorem ldrLoadsBasePlusOffset : Obligations.LdrLoadsBasePlusOffset := by
  refine ⟨fun w opcode => decode_ldr opcode, fun dr baseR off6 s => ?_⟩
  rw [← State.baseOff6_eq_signExtend]
  exact exec_result rfl

/-- Settles O41: LEA is one result write, of the PC-relative address. -/
theorem leaLoadsTheAddress : Obligations.LeaLoadsTheAddress := by
  refine ⟨fun w opcode => decode_lea opcode, fun dr off9 s => ?_⟩
  rw [← State.pcRel9_eq_signExtend]
  exact exec_result rfl

/-- Settles O42: ST is one store, at the PC-relative address. -/
theorem stStoresPcRelative : Obligations.StStoresPcRelative := by
  refine ⟨fun w opcode => decode_st opcode, fun sr off9 s a address => ?_⟩
  rw [← State.pcRel9_eq_signExtend] at address
  subst address
  exact ⟨rfl, exec_store rfl⟩

/-- Settles O43: STI is one store, at the address the pointer holds before it. -/
theorem stiStoresThroughPointer : Obligations.StiStoresThroughPointer := by
  refine ⟨fun w opcode => decode_sti opcode, fun sr off9 s a address => ?_⟩
  rw [← State.pcIndirect9_eq_signExtend] at address
  subst address
  exact ⟨rfl, exec_store rfl⟩

/-- Settles O44: STR is one store, at base plus offset. -/
theorem strStoresBasePlusOffset : Obligations.StrStoresBasePlusOffset := by
  refine ⟨fun w opcode => decode_str opcode, fun sr baseR off6 s a address => ?_⟩
  rw [← State.baseOff6_eq_signExtend] at address
  subst address
  exact ⟨rfl, exec_store rfl⟩

end Machine
end Sys2Proof
end

section
/-! RTI and RES (R190 to R192): the two reserved opcodes share one update, the diagnostic event, and its word is the one
fetched. -/

namespace Sys2Proof

theorem decode_rti {w : Word} (opcode : opcodeOf w = .rti) : decode w = .rti (slice w 0 12) := by
  simp only [decode, opcode]

theorem decode_res {w : Word} (opcode : opcodeOf w = .res) : decode w = .res (slice w 0 12) := by
  simp only [decode, opcode]

/-- A reserved word decodes to one of the two instructions that keep its low bits. -/
theorem decode_reserved {w : Word} (reserved : opcodeOf w = .rti ∨ opcodeOf w = .res) :
    (∃ low, decode w = .rti low) ∨ ∃ low, decode w = .res low :=
  reserved.imp (fun opcode => ⟨_, decode_rti opcode⟩) (fun opcode => ⟨_, decode_res opcode⟩)

/-- Decoding a reserved word loses no bit of it: the encoder makes the whole word again. -/
theorem encode_decode_reserved {w : Word} (reserved : opcodeOf w = .rti ∨ opcodeOf w = .res) :
    encode (decode w) = w := by
  obtain opcode | opcode := reserved
  · rw [decode_rti opcode]
    exact format12_slice opcode
  · rw [decode_res opcode]
    exact format12_slice opcode

/-- The opcode numbers of RTI and RES (R72, D1). -/
theorem opcodeOf_reserved {w : Word} (number : slice w 12 4 = 0x8#4 ∨ slice w 12 4 = 0xD#4) :
    opcodeOf w = .rti ∨ opcodeOf w = .res :=
  number.imp (congrArg Opcode.ofBits) (congrArg Opcode.ofBits)

namespace Machine

/-- A reserved instruction records its word as malformed and does nothing else. -/
theorem exec_reserved {i : Instr} (s : State) (reserved : (∃ low, i = .rti low) ∨ ∃ low, i = .res low) :
    exec i s = .next (s.emitMalformed (encode i)) := by
  obtain ⟨low, rfl⟩ | ⟨low, rfl⟩ := reserved <;> rfl

/-- Settles O45: RTI and RES are one diagnostic event, which moves no other field of the state. -/
theorem rtiAndResAreNoOps : Obligations.RtiAndResAreNoOps :=
  ⟨fun _ => decode_rti, fun _ => decode_res, fun _ s reserved => ⟨_, exec_reserved s reserved,
    fun _ _ => rfl, fun _ => rfl, rfl, rfl, ⟨rfl, rfl, rfl⟩, rfl, rfl, rfl, State.emitMalformed_diag .., rfl⟩⟩

/-- Settles O46: the event's word is the encoder's, which for a reserved word is the word fetched. -/
theorem malformedDiagnosticCarriesTheWord : Obligations.MalformedDiagnosticCarriesTheWord := by
  intro w s number
  have reserved := opcodeOf_reserved number
  have ran := exec_reserved s (decode_reserved reserved)
  rw [encode_decode_reserved reserved] at ran
  exact ⟨_, ran, s.emitMalformed_diag w⟩

end Machine
end Sys2Proof
end

section
/-! The output trace and the input stream over a step (R35, R200): which instructions write the one and take from the other. -/

namespace Sys2Proof.Machine

/-- The output after `i` is as it was, or `i` is one of the services that write and the output has grown (R200). -/
def OutputRule (i : Instr) (s t : State) : Prop :=
  t.output = s.output ∨ (i ∈ [Instr.out, .puts, .inChar, .putsp, .halt] ∧ s.output <+: t.output)

theorem Service.getc_or_writes (sv : Service) :
    sv = .getc ∨ sv.instr ∈ [Instr.out, .puts, .inChar, .putsp, .halt] := by
  cases sv with
  | getc => exact .inl rfl
  | inChar => exact .inr (by decide)
  | scan kind a => cases kind <;> exact .inr (by simp [Service.instr])

theorem resumeService_output_prefix (sv : Service) (s : State) : s.output <+: (resumeService sv s).output := by
  cases sv with
  | getc => obtain ⟨-, -, -, output, -⟩ := getcRead_frame s; exact ⟨[], by rw [List.append_nil]; exact output.symm⟩
  | inChar => obtain ⟨-, -, -, output, -⟩ := inRead_frame s; exact ⟨_, output.symm⟩
  | scan kind a => obtain ⟨events, _, e⟩ := scanFrom_frame kind a s; exact ⟨events, by rw [resumeService, e]⟩

/-- GETC echoes nothing. -/
theorem getcRead_output (s : State) : (getcRead s).output = s.output := by
  obtain ⟨-, -, -, output, -⟩ := getcRead_frame s
  exact output

theorem resumeService_outputRule (sv : Service) (s : State) : OutputRule sv.instr s (resumeService sv s) := by
  rcases sv.getc_or_writes with rfl | writes
  · exact .inl (getcRead_output s)
  · exact .inr ⟨writes, resumeService_output_prefix sv s⟩

/-- GETC by its meaning, every other instruction by its effect: the prompt that goes before a service is output, too. -/
theorem exec_outputRule {i : Instr} {s t : State} (wf : i.wellFormed = true) (h : exec i s = .next t) :
    OutputRule i s t := by
  by_cases isGetc : i = .getc
  · subst isGetc; cases h; exact .inl (getcRead_output s.saveReturn)
  · cases exec_effect wf h with
    | result | store | transfer | call | pass | malformed | link => exact .inl rfl
    | out is => subst is; exact .inr ⟨by decide, ⟨_, (List.append_assoc ..).symm⟩⟩
    | halt is => subst is; exact .inr ⟨by decide, ⟨_, (List.append_assoc ..).symm⟩⟩
    | service sv prompt is =>
      subst is
      rcases sv.getc_or_writes with rfl | writes
      · exact absurd rfl isGetc
      · have prompted : s.output <+: (s.saveReturn.writeBytes prompt).output := List.prefix_append ..
        exact .inr ⟨writes, prompted.trans (resumeService_output_prefix sv _)⟩

theorem step_outputRule {s t : State} (running : s.run = .running) (h : step s = .next t) :
    OutputRule s.executing s t := by
  rcases step_cases h with ⟨ended, -⟩ | ⟨-, sv, under, rfl⟩ | ⟨-, idle, ran⟩
  · exact absurd running ended
  · rw [State.executing_service under]; exact resumeService_outputRule sv s
  · rw [State.executing_fetch idle]; exact exec_outputRule (s := s.advancePc) (decode_wellFormed _) ran

/-- Settles O23, by the rule for one instruction. -/
theorem outputTraceOnlyGrows : Obligations.OutputTraceOnlyGrows := by
  intro s t h
  by_cases running : s.run = .running
  · rcases step_outputRule running h with same | ⟨writes, events, grown⟩
    · exact ⟨[], by rw [same, List.append_nil], fun nonempty => absurd rfl nonempty⟩
    · exact ⟨events, grown.symm, fun _ => ⟨running, writes⟩⟩
  · exact ⟨[], by rw [step_ended_eq running h, List.append_nil], fun nonempty => absurd rfl nonempty⟩

/-- Nothing is read from the host, or `i` is a read and takes the host's answer (R200; logs 15, 23). -/
def InputRule (i : Instr) (s t : State) : Prop :=
  SameInput s t ∨ ((i = .getc ∨ i = .inChar) ∧ t.input = s.input.tail ∧
    t.inputPos = s.inputPos + consumedBytes s.hostAnswer)

theorem resumeService_inputRule (sv : Service) (s : State) : InputRule sv.instr s (resumeService sv s) := by
  cases sv with
  | getc => obtain ⟨-, -, -, -, -, taken⟩ := getcRead_frame s; exact .inr ⟨.inl rfl, taken⟩
  | inChar => obtain ⟨-, -, -, -, -, taken⟩ := inRead_frame s; exact .inr ⟨.inr rfl, taken⟩
  | scan kind a =>
    obtain ⟨_, _, e⟩ := scanFrom_frame kind a s
    rw [resumeService, e]
    exact .inl ⟨rfl, rfl, rfl⟩

theorem ExecEffect.inputRule {i : Instr} {s t : State} (h : ExecEffect i s t) : InputRule i s t := by
  cases h with
  | result | store | transfer | call | pass | malformed | link | out | halt => exact .inl ⟨rfl, rfl, rfl⟩
  | service sv prompt is => subst is; exact resumeService_inputRule sv _

theorem step_inputRule {s t : State} (running : s.run = .running) (h : step s = .next t) : InputRule s.executing s t := by
  rcases step_effect running h with ⟨sv, -, under, rfl⟩ | ⟨-, -, effect⟩
  · rw [under]; exact resumeService_inputRule sv s
  · exact effect.inputRule

/-- Settles O24, by the effects an instruction can have. -/
theorem inputIsTakenOnlyByGetcAndIn : Obligations.InputIsTakenOnlyByGetcAndIn := by
  intro s t h
  by_cases running : s.run = .running
  · exact (step_inputRule running h).imp_right fun taken => ⟨running, taken⟩
  · rw [step_ended_eq running h]
    exact .inl ⟨rfl, rfl, rfl⟩

end Sys2Proof.Machine
end

section
/-! The frame of a TRAP (R201, R211), and the services that never wait: an unlisted vector, OUT and HALT. -/

namespace Sys2Proof.Machine

/-- A service begins after the R7 write; what it leaves alone from there on, the TRAP leaves alone. -/
theorem TrapFrame.of_saveReturn {rs : List Reg} {s t : State} (r7 : .r7 ∉ rs) (regs : SameRegsBut rs s.saveReturn t)
    (mem : SameMemory s t) (pc : t.pc = s.pc) (diag : t.diag = s.diag) : TrapFrame rs s t := by
  refine ⟨(regs .r7 r7).trans (s.saveReturn_reg .r7), fun r unlisted => ?_, mem, pc, diag⟩
  obtain ⟨notR7, notListed⟩ := not_or.mp (List.mem_cons.not.mp unlisted)
  rw [regs r notListed, State.saveReturn_reg, if_neg notR7]

theorem isServiceVector_eq_false {v : BitVec 8} (h : v.toNat < 0x20 ∨ 0x25 < v.toNat) : isServiceVector v = false := by
  simp only [isServiceVector, Bool.and_eq_false_iff, decide_eq_false_iff_not, BitVec.le_def, BitVec.toNat_ofNat]
  omega

/-- Settles O47: after the R7 write nothing else happens. -/
theorem unlistedTrapOnlySavesReturn : Obligations.UnlistedTrapOnlySavesReturn := by
  intro v s unlisted
  have meaning : exec (.trap v) s = .next s.saveReturn :=
    congrArg Host.Outcome.next (trapService_other (isServiceVector_eq_false unlisted) s.saveReturn)
  exact ⟨_, meaning, .of_saveReturn (by simp) (fun _ _ => rfl) (fun _ => rfl) rfl rfl, rfl, ⟨rfl, rfl, rfl⟩, rfl, rfl,
    rfl, rfl⟩

/-- Settles O48: the sub-dispatch computes at each listed vector. -/
theorem listedTrapVectorsSelectTheirServices : Obligations.ListedTrapVectorsSelectTheirServices :=
  fun _ => ⟨rfl, rfl, rfl, rfl, rfl, rfl⟩

theorem lowByte_eq_ofNat (v : Word) : lowByte v = BitVec.ofNat 8 (v.toNat % 256) := by
  apply BitVec.eq_of_toNat_eq
  simp [lowByte]

/-- Settles O53: R0 is read after the R7 write, which leaves it as it was. -/
theorem outWritesLowByteOfR0 : Obligations.OutWritesLowByteOfR0 := by
  intro s
  rw [← lowByte_eq_ofNat]
  exact ⟨outService s.saveReturn, rfl, List.append_assoc .., .of_saveReturn (by simp) (fun _ _ => rfl) (fun _ => rfl) rfl rfl,
    rfl, ⟨rfl, rfl, rfl⟩, rfl, rfl⟩

/-- Settles O57: HALTED is not RUNNING, so no step leaves it. -/
theorem haltNotifiesAndHalts : Obligations.HaltNotifiesAndHalts := fun s =>
  ⟨haltService s.saveReturn, rfl, rfl, rfl, rfl, rfl,
    .of_saveReturn (by simp) (fun _ _ => rfl) (fun _ => rfl) rfl rfl, rfl, ⟨rfl, rfl, rfl⟩, rfl,
    step_ended (by simp [haltService])⟩

end Sys2Proof.Machine
end

section
/-! The reads of GETC and IN (R200, R202, R206), begun by the TRAP or under way: what a byte, a failure and no answer do. -/

namespace Sys2Proof.Machine

/-- What a read leaves alone, whatever the host answers, and what it uses up (logs 15, 23). -/
structure ReadFrame (s t : State) : Prop where
  regs : SameRegsBut [.r0] s t
  mem : SameMemory s t
  pc : t.pc = s.pc
  diag : t.diag = s.diag
  input : t.input = s.input.tail
  inputPos : t.inputPos = s.inputPos + consumedBytes s.hostAnswer

/-- What a read writes out with this answer: IN echoes a byte. -/
def Service.echo : Service → Option HostAnswer → List OutEvent
  | .inChar, some (.byte b) => [.byte b, .flush]
  | _, _ => []

theorem getcRead_readFrame (s : State) : ReadFrame s (getcRead s) := by
  obtain ⟨mem, pc, regs, -, diag, input, inputPos⟩ := getcRead_frame s
  exact ⟨fun r other => regs r (List.mem_singleton.not.mp other), fun a => congrArg (Memory.read · a) mem, pc, diag, input,
    inputPos⟩

theorem inRead_readFrame (s : State) : ReadFrame s (inRead s) := by
  obtain ⟨mem, pc, regs, -, diag, input, inputPos⟩ := inRead_frame s
  exact ⟨fun r other => regs r (List.mem_singleton.not.mp other), fun a => congrArg (Memory.read · a) mem, pc, diag, input,
    inputPos⟩

section

variable {sv : Service} {s : State}

theorem resumeService_readFrame (read : sv = .getc ∨ sv = .inChar) (s : State) : ReadFrame s (resumeService sv s) := by
  rcases read with rfl | rfl
  · exact getcRead_readFrame s
  · exact inRead_readFrame s

theorem resumeService_read_output (read : sv = .getc ∨ sv = .inChar) (s : State) :
    (resumeService sv s).output = s.output ++ sv.echo s.hostAnswer := by
  rcases read with rfl | rfl
  · exact (getcRead_output s).trans (List.append_nil _).symm
  · obtain ⟨-, -, -, output, -⟩ := inRead_frame s
    refine output.trans (congrArg (s.output ++ ·) ?_)
    rcases s.hostAnswer with _ | _ | _ <;> rfl

/-- A byte ends the read. -/
theorem resumeService_byte {b : Byte} (read : sv = .getc ∨ sv = .inChar) (answer : s.hostAnswer = some (.byte b)) :
    (resumeService sv s).reg .r0 = zext16 b ∧ (resumeService sv s).cond = condOf (zext16 b) ∧
    (resumeService sv s).run = s.run ∧ (resumeService sv s).service = none := by
  rcases resumeService_read_cases read s with ⟨_, heard, result⟩ | ⟨heard, -⟩ | ⟨heard, -⟩
  · cases answer.symm.trans heard
    exact result
  · cases answer.symm.trans heard
  · cases answer.symm.trans heard

/-- A failure ends the read and the run (R231). -/
theorem resumeService_failure (read : sv = .getc ∨ sv = .inChar) (answer : s.hostAnswer = some .failure) :
    (resumeService sv s).run = .ioFault ∧ (resumeService sv s).service = none := by
  rcases resumeService_read_cases read s with ⟨_, heard, -⟩ | ⟨-, -, -, result⟩ | ⟨heard, -⟩
  · cases answer.symm.trans heard
  · exact result
  · cases answer.symm.trans heard

/-- Without an answer the read waits (R200). -/
theorem resumeService_waits (read : sv = .getc ∨ sv = .inChar) (answer : s.hostAnswer = none) :
    (resumeService sv s).run = s.run ∧ (resumeService sv s).service = some sv := by
  rcases resumeService_read_cases read s with ⟨_, heard, -⟩ | ⟨heard, -⟩ | ⟨-, -, -, result⟩
  · cases answer.symm.trans heard
  · cases answer.symm.trans heard
  · exact result

/-- Without a byte nothing is echoed or counted (log 23). -/
theorem Service.silent_without_byte (sv : Service) {answer : Option HostAnswer}
    (noByte : answer = none ∨ answer = some .failure) : sv.echo answer = [] ∧ consumedBytes answer = 0 := by
  rcases noByte with rfl | rfl <;> cases sv <;> exact ⟨rfl, rfl⟩

/-- Without a byte a read writes neither R0 nor COND. -/
theorem resumeService_noByteTaken (read : sv = .getc ∨ sv = .inChar)
    (noByte : s.hostAnswer = none ∨ s.hostAnswer = some .failure) : NoByteTaken s (resumeService sv s) := by
  obtain ⟨r0, cond⟩ : (resumeService sv s).reg .r0 = s.reg .r0 ∧ (resumeService sv s).cond = s.cond := by
    rcases resumeService_read_cases read s with ⟨_, heard, -⟩ | ⟨-, r0, cond, -⟩ | ⟨-, r0, cond, -⟩
    · simp [heard] at noByte
    · exact ⟨r0, cond⟩
    · exact ⟨r0, cond⟩
  obtain ⟨regs, mem, pc, diag, input, inputPos⟩ := resumeService_readFrame read s
  obtain ⟨noEcho, noCount⟩ := sv.silent_without_byte noByte
  have output := resumeService_read_output read s
  rw [noEcho, List.append_nil] at output
  rw [noCount] at inputPos
  refine ⟨fun r _ => ?_, cond, pc, mem, output, diag, input, inputPos⟩
  by_cases isR0 : r = .r0
  · rw [isR0, r0]
  · exact regs r (List.mem_singleton.not.mpr isR0)

theorem Service.echo_byte (read : sv = .getc ∨ sv = .inChar) (b : Byte) :
    sv.echo (some (.byte b)) = if sv = .inChar then [.byte b, .flush] else [] := by
  rcases read with rfl | rfl <;> rfl

theorem zext16_toNat (b : Byte) : (zext16 b).toNat = b.toNat := BitVec.toNat_setWidth_of_le (by decide)

/-- GETC is its R7 write and then a read, with no prompt between them. -/
theorem exec_getc (s : State) : exec .getc s = .next (resumeService .getc (s.saveReturn.writeBytes [])) := by
  rw [State.writeBytes_nil]; rfl

/-- IN is its R7 write, its prompt and then a read. -/
theorem exec_inChar (s : State) :
    exec .inChar s = .next (resumeService .inChar (s.saveReturn.writeBytes Config.inPrompt)) := rfl

/-- A TRAP that reads, with a byte from the host. -/
theorem exec_read_byte {i : Instr} {prompt : List Byte} {b : Byte} (read : sv = .getc ∨ sv = .inChar)
    (meaning : exec i s = .next (resumeService sv (s.saveReturn.writeBytes prompt)))
    (answer : s.hostAnswer = some (.byte b)) : ∃ t, exec i s = .next t ∧
      (t.reg .r0).toNat = b.toNat ∧ t.cond = (if b = 0#8 then condZero else condPositive) ∧ TrapFrame [.r0] s t ∧
      t.output = s.output ++ prompt.map .byte ++ sv.echo (some (.byte b)) ∧ t.run = s.run ∧ t.service = none ∧
      t.input = s.input.tail ∧ t.inputPos = s.inputPos + 1 := by
  have entry : (s.saveReturn.writeBytes prompt).hostAnswer = some (.byte b) := answer
  obtain ⟨r0, cond, run, service⟩ := resumeService_byte read entry
  obtain ⟨regs, mem, pc, diag, input, inputPos⟩ := resumeService_readFrame read (s.saveReturn.writeBytes prompt)
  have output := resumeService_read_output read (s.saveReturn.writeBytes prompt)
  rw [entry] at inputPos output
  exact ⟨_, meaning, by rw [r0, zext16_toNat], cond.trans (condOf_zext16 b), .of_saveReturn (by decide) regs mem pc diag,
    output, run, service, input, inputPos⟩

/-- A TRAP that reads, while the host has not answered. -/
theorem exec_read_waits {i : Instr} {prompt : List Byte} (read : sv = .getc ∨ sv = .inChar)
    (meaning : exec i s = .next (resumeService sv (s.saveReturn.writeBytes prompt)))
    (answer : s.hostAnswer = none) : ∃ t, exec i s = .next t ∧ t.service = some sv ∧ t.run = s.run ∧
      TrapFrame [] s t ∧ t.cond = s.cond ∧ t.output = s.output ++ prompt.map .byte ∧ t.input = s.input.tail ∧
      t.inputPos = s.inputPos := by
  have entry : (s.saveReturn.writeBytes prompt).hostAnswer = none := answer
  obtain ⟨run, service⟩ := resumeService_waits read entry
  obtain ⟨regs, cond, pc, mem, output, diag, input, inputPos⟩ := resumeService_noByteTaken read (.inl entry)
  exact ⟨_, meaning, service, run, .of_saveReturn (by simp) regs mem pc diag, cond, output, input, inputPos⟩

end

/-- Settles O49: GETC is a read with neither prompt nor echo. -/
theorem getcReadsOneByteWithoutEcho : Obligations.GetcReadsOneByteWithoutEcho := by
  intro s b answer
  obtain ⟨t, ran, r0, cond, frame, output, rest⟩ := exec_read_byte (.inl rfl) (exec_getc s) answer
  exact ⟨t, ran, r0, cond, frame, by simpa [Service.echo] using output, rest⟩

/-- Settles O50: IN is a read with a prompt and an echo. -/
theorem inPromptsReadsAndEchoes : Obligations.InPromptsReadsAndEchoes :=
  fun s _ answer => exec_read_byte (.inr rfl) (exec_inChar s) answer

/-- Settles O52: the TRAP and every later step are the same read, by what the host answers to it. -/
theorem unansweredReadWaits : Obligations.UnansweredReadWaits := by
  refine ⟨fun s answer => ⟨?_, exec_read_waits (.inr rfl) (exec_inChar s) answer⟩,
    fun s sv running under read => ⟨fun answer => ?_, fun answer => ?_, fun b answer => ?_⟩⟩
  · obtain ⟨t, ran, service, run, frame, cond, output, rest⟩ := exec_read_waits (.inl rfl) (exec_getc s) answer
    exact ⟨t, ran, service, run, frame, cond, output.trans (List.append_nil _), rest⟩
  · obtain ⟨run, service⟩ := resumeService_waits read answer
    exact ⟨_, step_service running under, service, run.trans running, resumeService_noByteTaken read (.inl answer)⟩
  · obtain ⟨run, service⟩ := resumeService_failure read answer
    exact ⟨_, step_service running under, service, run, by simp [State.faultOf, run], by simp [State.cleanEnd, run],
      resumeService_noByteTaken read (.inr answer), step_ended (by simp [run])⟩
  · obtain ⟨r0, cond, run, service⟩ := resumeService_byte read answer
    obtain ⟨regs, mem, pc, diag, input, inputPos⟩ := resumeService_readFrame read s
    have output := resumeService_read_output read s
    rw [answer] at inputPos output
    rw [Service.echo_byte read] at output
    exact ⟨_, step_service running under, service, run.trans running, by rw [r0, zext16_toNat], by rw [cond, r0], regs, pc,
      mem, output, diag, input, inputPos⟩

end Sys2Proof.Machine
end

section
/-! PUTS and PUTSP (R204 to R208): a string that ends within a lap of memory, and one that never ends. -/

namespace Sys2Proof.Machine

/-- A TRAP that goes through a string which ends. -/
theorem exec_string_ends {i : Instr} {kind : StringKind} {s : State} {bytes : List Byte}
    (meaning : exec i s = .next (scanFrom kind (s.reg .r0) s.saveReturn))
    (ends : kind.scan s.mem Config.memCells (s.reg .r0) = ⟨bytes, true⟩) : ∃ t, exec i s = .next t ∧
      t.output = s.output ++ bytes.map .byte ++ [.flush] ∧ TrapFrame [] s t ∧ t.cond = s.cond ∧ SameInput s t ∧
      t.run = s.run ∧ t.service = none := by
  rcases scanFrom_cases kind (s.reg .r0) s.saveReturn with ⟨-, e⟩ | ⟨endless, -⟩
  · rw [State.saveReturn_eq, State.setReg_mem, ends] at e
    exact ⟨_, meaning.trans (congrArg _ e), rfl, .of_saveReturn (by simp) (fun _ _ => rfl) (fun _ => rfl) rfl rfl, rfl,
      ⟨rfl, rfl, rfl⟩, rfl, rfl⟩
  · rw [State.saveReturn_eq, State.setReg_mem, ends] at endless
    cases endless

/-- Settles O54: the scan finds the terminator within its lap, since there are no more cells than that. -/
theorem putsWritesCellsUpToZero : Obligations.PutsWritesCellsUpToZero := by
  intro s n inLap before terminator
  obtain ⟨t, ran, output, rest⟩ := exec_string_ends (i := .puts) (kind := .puts) rfl
    (scanPuts_terminated s.mem n Config.memCells (s.reg .r0) inLap before terminator)
  refine ⟨t, ran, ?_, rest⟩
  rw [output, List.map_map]
  rfl

/-- Settles O55: likewise, with the bytes of each cell in their order. -/
theorem putspWritesBytesUpToZero : Obligations.PutspWritesBytesUpToZero := by
  intro s n inLap before terminator
  obtain ⟨t, ran, output, rest⟩ := exec_string_ends (i := .putsp) (kind := .putsp) rfl
    (scanPutsp_terminated s.mem n Config.memCells (s.reg .r0) inLap before terminator)
  refine ⟨t, ran, ?_, rest⟩
  rw [output, List.map_append, List.map_flatMap, apply_ite (List.map OutEvent.byte), ← List.append_assoc s.output]
  rfl

/-- From `s` to `u` a string service has written `n` bytes, is still under way, and nothing else has changed. -/
def ScannedOn (kind : StringKind) (a : Word) (n : Nat) (s u : State) : Prop :=
  ∃ events, events.length = n ∧ u = { s with output := s.output ++ events, service := some (.scan kind a) }

/-- A lap of `lap` bytes that finds no terminator. -/
def EndlessLap (kind : StringKind) (m : Memory) (a : Word) (lap : Nat) : Prop :=
  (kind.scan m Config.memCells a).ended = false ∧ (kind.scan m Config.memCells a).bytes.length = lap

section

variable {kind : StringKind} {a : Word} {lap : Nat}

theorem ScannedOn.refl {s : State} (under : s.service = some (.scan kind a)) : ScannedOn kind a 0 s s :=
  ⟨[], rfl, by rw [List.append_nil, ← under]⟩

theorem ScannedOn.trans {s t u : State} {n m : Nat} (early : ScannedOn kind a n s t) (late : ScannedOn kind a m t u) :
    ScannedOn kind a (n + m) s u := by
  obtain ⟨written, rfl, rfl⟩ := early
  obtain ⟨more, rfl, rfl⟩ := late
  exact ⟨written ++ more, List.length_append, by rw [List.append_assoc]⟩

theorem ScannedOn.run {s u : State} {n : Nat} (h : ScannedOn kind a n s u) : u.run = s.run := by
  obtain ⟨_, -, rfl⟩ := h; rfl

theorem ScannedOn.mem {s u : State} {n : Nat} (h : ScannedOn kind a n s u) : u.mem = s.mem := by
  obtain ⟨_, -, rfl⟩ := h; rfl

theorem ScannedOn.service {s u : State} {n : Nat} (h : ScannedOn kind a n s u) : u.service = some (.scan kind a) := by
  obtain ⟨_, -, rfl⟩ := h; rfl

theorem scanFrom_endless {s : State} (endless : EndlessLap kind s.mem a lap) :
    ScannedOn kind a lap s (scanFrom kind a s) := by
  obtain ⟨unended, rfl⟩ := endless
  rcases scanFrom_cases kind a s with ⟨ended, -⟩ | ⟨-, e⟩
  · cases unended.symm.trans ended
  · exact ⟨_, List.length_map .., e⟩

theorem run_succ_of_step {s t : State} (k : Nat) (h : step s = .next t) :
    Host.Core.run Sys2Proof.core (k + 1) s = Host.Core.run Sys2Proof.core k t := by
  have stepped : Sys2Proof.core.step s = .next t := h
  simp only [Host.Core.run, stepped]

/-- Every step of an endless scan is one more lap: no service writes memory, so each lap is like the last. -/
theorem run_endless (k : Nat) : ∀ {t : State}, t.run = .running → t.service = some (.scan kind a) →
    EndlessLap kind t.mem a lap →
    ∃ u, Host.Core.run Sys2Proof.core k t = .next u ∧ ScannedOn kind a (k * lap) t u := by
  induction k with
  | zero => exact fun {t} _ under _ => ⟨t, rfl, by rw [Nat.zero_mul]; exact .refl under⟩
  | succ k ih =>
    intro t running under endless
    have oneLap : ScannedOn kind a lap t (scanFrom kind a t) := scanFrom_endless endless
    obtain ⟨u, ran, later⟩ := ih (oneLap.run.trans running) oneLap.service (oneLap.mem ▸ endless)
    refine ⟨u, (run_succ_of_step k (step_service running under)).trans ran, ?_⟩
    rw [Nat.succ_mul, Nat.add_comm]
    exact oneLap.trans later

/-- A TRAP that goes through a string which never ends, and `k` steps after it. -/
theorem exec_string_endless {i : Instr} {s : State} (k : Nat)
    (meaning : exec i s = .next (scanFrom kind (s.reg .r0) s.saveReturn)) (running : s.run = .running)
    (endless : EndlessLap kind s.mem (s.reg .r0) lap) : ∃ t u, exec i s = .next t ∧
      Host.Core.run Sys2Proof.core k t = .next u ∧ u.run = .running ∧
      u.executing = (Service.scan kind (s.reg .r0)).instr ∧ u.output.length = s.output.length + (k + 1) * lap ∧
      TrapFrame [] s u ∧ u.cond = s.cond := by
  have oneLap : ScannedOn kind (s.reg .r0) lap s.saveReturn _ := scanFrom_endless endless
  obtain ⟨u, ran, later⟩ := run_endless k (oneLap.run.trans running) oneLap.service (oneLap.mem ▸ endless)
  obtain ⟨events, length, rfl⟩ := oneLap.trans later
  refine ⟨_, _, meaning, ran, running, State.executing_service rfl, ?_,
    .of_saveReturn (by simp) (fun _ _ => rfl) (fun _ => rfl) rfl rfl, rfl⟩
  rw [List.length_append, length, Nat.succ_mul, Nat.add_comm lap]
  rfl

end

/-- Settles O56: a lap of PUTS is a byte a cell, one of PUTSP two. -/
theorem unterminatedStringNeverEnds : Obligations.UnterminatedStringNeverEnds := fun s k running =>
  ⟨fun noZeroCell => exec_string_endless k (kind := .puts) rfl running (scanPuts_endless s.mem noZeroCell _ _),
    fun noZeroByte => exec_string_endless k (kind := .putsp) rfl running (scanPutsp_endless s.mem noZeroByte _ _)⟩

end Sys2Proof.Machine
end

section
/-! Exceptions (R230, R231, R242): the fatal input failure, the states that stay, and that nothing else stops a step. -/

namespace Sys2Proof.Machine

/-- Settles O8: each step answers the same state. -/
theorem endedRunsStayAsTheyAre : Obligations.EndedRunsStayAsTheyAre := by
  intro k s ended
  induction k with
  | zero => rfl
  | succ k ih => exact (run_succ_of_step k (step_ended ended)).trans ih

/-- The next state is the one the six units compute (D26). -/
theorem exec_decode_total (w : Word) (s : State) : ∃ t, exec (decode w) s = .next t :=
  ⟨datapath w s, unitsAgreeWithExec w s⟩

theorem step_total (s : State) : ∃ t, step s = .next t := by
  by_cases running : s.run = .running
  · rcases idle : s.service with _ | sv
    · rw [step_fetch running idle]
      exact exec_decode_total s.fetchWord s.advancePc
    · exact ⟨resumeService sv s, step_service running idle⟩
  · exact ⟨s, step_ended running⟩

/-- Settles O9: every word has a meaning, and the loop check and a service under way answer a next state too. -/
theorem everyWordExecutes : Obligations.EveryWordExecutes := ⟨exec_decode_total, step_total⟩

/-- IO_FAULT is a fault, no clean end (R109), and stays (R242). -/
theorem ioFault_is_fault_and_stays {t : State} (run : t.run = .ioFault) :
    t.faultOf = some .ioFailure ∧ t.cleanEnd = false ∧ step t = .next t :=
  ⟨by simp [State.faultOf, run], by simp [State.cleanEnd, run], step_ended (by simp [run])⟩

/-- A TRAP that reads, when the read fails: it ends as a read under way does, after the R7 write and the prompt. -/
theorem exec_read_fails {sv : Service} {i : Instr} {s : State} {prompt : List Byte} (read : sv = .getc ∨ sv = .inChar)
    (meaning : exec i s = .next (resumeService sv (s.saveReturn.writeBytes prompt)))
    (answer : s.hostAnswer = some .failure) : ∃ t, exec i s = .next t ∧ t.run = .ioFault ∧
      t.faultOf = some .ioFailure ∧ t.cleanEnd = false ∧ TrapFrame [] s t ∧ t.cond = s.cond ∧
      t.output = s.output ++ prompt.map .byte ∧ step t = .next t := by
  have entry : (s.saveReturn.writeBytes prompt).hostAnswer = some .failure := answer
  obtain ⟨run, -⟩ := resumeService_failure read entry
  obtain ⟨regs, cond, pc, mem, output, diag, -⟩ := resumeService_noByteTaken read (.inr entry)
  obtain ⟨fault, unclean, stays⟩ := ioFault_is_fault_and_stays run
  exact ⟨_, meaning, run, fault, unclean, .of_saveReturn (by simp) regs mem pc diag, cond, output, stays⟩

/-- Settles O51: GETC's read has no prompt before it, IN's has. -/
theorem inputFailureEndsInIoFault : Obligations.InputFailureEndsInIoFault := by
  refine fun s answer => ⟨?_, exec_read_fails (.inr rfl) (exec_inChar s) answer⟩
  obtain ⟨t, ran, run, fault, unclean, frame, cond, output, stays⟩ := exec_read_fails (.inl rfl) (exec_getc s) answer
  exact ⟨t, ran, run, fault, unclean, frame, cond, output.trans (List.append_nil _), stays⟩

end Sys2Proof.Machine
end

section
/-! The reset input (R261 to R263): what it keeps, and the cycle that follows it. -/

namespace Sys2Proof.Machine

/-- Settles O59: reset writes everything but memory, and a launch is given its memory. -/
theorem resetKeepsMemory : Obligations.ResetKeepsMemory := ⟨State.assertReset_memRead, fun _ _ => rfl⟩

/-- The cycle after reset: the run state is RUNNING and a service under way is abandoned (R263, log 22), so the loop fetches,
at the start address, from the memory as it was (R262). -/
theorem step_assertReset (s : State) :
    step s.assertReset = exec (decode (s.memRead 0x3000#16)) (s.assertReset.setPc 0x3001#16) := by
  have running : s.assertReset.run = .running := rfl
  have idle : s.assertReset.service = none := rfl
  have fetched : s.assertReset.fetchWord = s.memRead 0x3000#16 := s.assertReset_memRead _
  have advanced : s.assertReset.advancePc = s.assertReset.setPc 0x3001#16 := rfl
  rw [step_fetch running idle, fetched, advanced]

/-- Settles O60: the fields are those of `State.reset`, which has them whatever state reset was asserted in. -/
theorem assertedResetStartsAfresh : Obligations.AssertedResetStartsAfresh := by
  obtain ⟨-, pc, cond, run, output, -⟩ := resetValues
  exact fun s => ⟨s.assertReset_reg, pc, cond, run, output, step_assertReset s⟩

end Sys2Proof.Machine
end
